-- ==== Sys2Proof/Config.lean ====
section
/-! DEFINITION. What the spec leaves open: the two parameters of the hardware, and the free values.

The parameters are ARGUMENTS of the model (00_scope.md R7, R8; 92_eei_decisions.md D2, D9): `Params` is any pair the
spec allows, everything of a block is taken at its parameters, and no step changes them.

The free values are what the spec leaves without a value and the machine nevertheless answers.
93_implementation_defined.md U9 (10_state.md R32, 20_memory.md R53): a host read of `RESULT` while `RVALID = 0` and a
host read of a buffer byte not written since reset return "any value" and change nothing.  Each constant has no body,
so nothing can be proved about the value; it is applied to a plain counter of the state (`Block.freeCount`), so that
two reads need not agree.  Log entry 3. -/

namespace Sys2Proof

/-- The parameters of one hardware: any values R7 and R8 allow. -/
structure Params where
  /-- `REGW`, the register capacity in bits (R7). -/
  regw : Nat
  /-- `BUFSZ`, the size of the message buffer in bytes (R8). -/
  bufsz : Nat
  /-- "a natural number with `REGW >= 8`" (R7). -/
  eight_le_regw : 8 ≤ regw
  /-- "a natural number with `1 <= BUFSZ`" (R8). -/
  one_le_bufsz : 1 ≤ bufsz
  /-- "`<= 2^32`" (R8). -/
  bufsz_le : bufsz ≤ 2 ^ 32
deriving DecidableEq, Repr

namespace Config

/-- What a read of `RESULT` gives while it holds no command's value, in a register of `w` bits (U9).  DESIGN CHOICE of
form, log entry 3. -/
opaque freeWord (w : Nat) : Nat → BitVec w

/-- What a host read of a buffer byte not written since reset gives (U9).  DESIGN CHOICE of form, log entry 3. -/
opaque freeByte : Nat → BitVec 8

end Config

end Sys2Proof
end

