-- ==== Sys2Proof/Word.lean ====
section
/-! DEFINITION. The word types: register-width values, bytes, 32-bit registers and command words (R7, R11, R71).

All values are unsigned (R11).  The operators of R12 are Lean's own on bit vectors: `^^^`, `&&&`, `|||`, `~~~`;
`a <<< n` is `shl(a, n)`, which is total and gives 0 once `n` reaches the width; `a >>> n` is `shr(a, n)`;
`setWidth` is `zext` where it widens. -/

namespace Sys2Proof

/-- A register-width value: remainder, table entry, polynomial, operand, result: `REGW` bits (R7). -/
abbrev Word (p : Params) := BitVec p.regw

/-- A message byte (R51). -/
abbrev Byte := BitVec 8

/-- A 32-bit register or command word (R24, R71). -/
abbrev Word32 := BitVec 32

/-- A table file: 256 entries of `W` bits (R33). -/
abbrev Table (W : Nat) := Vector (BitVec W) 256

end Sys2Proof
end

