-- ==== Sys2Proof/Syntax.lean ====
section
/-! DEFINITION. What the host can write: the seventeen commands, the events of the host port, and the assembler
notation (30_encoding.md R70 to R84; 70_reset_and_hazards.md R210). -/

namespace Sys2Proof

/-- The seventeen commands of R79, one constructor per row of spec/opcode_table.json, with the inline operands of
their formats (R73 to R77).  Operand types have exactly the width of their fields, so every term is encodable. -/
inductive Instr where
  /-- `construct`, format Z (R96). -/
  | construct
  /-- `bse.pbit bit`, format B (R111). -/
  | bsePbit (bit : Bool)
  /-- `bse.pbits val, cnt`, format P (R112). -/
  | bsePbits (val : Byte) (cnt : BitVec 4)
  /-- `bse.pbyte byte`, format Y (R113). -/
  | bsePbyte (byte : Byte)
  /-- `bse.pbytes`, format Z (R114). -/
  | bsePbytes
  /-- `bse.reset`, format Z (R115). -/
  | bseReset
  /-- `bse.resetv`, format Z (R116). -/
  | bseResetv
  /-- `bse.interim`, format Z (R117). -/
  | bseInterim
  /-- `bse.checksum`, format Z (R118). -/
  | bseChecksum
  /-- `tde.pbyte byte`, format Y (R143). -/
  | tdePbyte (byte : Byte)
  /-- `tde.pbytes`, format Z (R144). -/
  | tdePbytes
  /-- `tde.reset`, format Z (R145). -/
  | tdeReset
  /-- `tde.resetv`, format Z (R146). -/
  | tdeResetv
  /-- `tde.interim`, format Z (R147). -/
  | tdeInterim
  /-- `tde.checksum`, format Z (R148). -/
  | tdeChecksum
  /-- `tb.read sel, idx`, format T (R133); `sel` false is `TDE_TABLE`, true is `AUG_TABLE`. -/
  | tbRead (sel : Bool) (idx : Byte)
  /-- `aug.calc`, format Z (R161). -/
  | augCalc
deriving DecidableEq, Repr

/-- The eleven host registers of R34. -/
inductive RegName where
  | cfgWidth | cfgPoly | cfgInit | cfgXorout | cfgCtrl | argA | argOff | argSize | status | result | faultCw
deriving DecidableEq, Repr

/-- One event of the host port: the five transactions of R70, and reset, which R210 keeps apart from them.
Register indices, buffer addresses and written values are naturals, because R228 makes their ranges the host's
duty: an event outside them can be written down, and the machine has no move for it (U10). -/
inductive HostEvent where
  /-- `RegRead(i)` (R39). -/
  | regRead (i : Nat)
  /-- `RegWrite(i, v)` (R39). -/
  | regWrite (i v : Nat)
  /-- `BufRead(addr)` (R53). -/
  | bufRead (addr : Nat)
  /-- `BufWrite(addr, b)` (R53). -/
  | bufWrite (addr b : Nat)
  /-- `Command(cw)` (R70, R71). -/
  | command (cw : Word32)
  /-- Reset (R210). -/
  | reset
deriving DecidableEq, Repr

/-- One line of the assembler notation: the four register and buffer transactions and the commands of R83, and the
pseudo-instructions of R84.  Operands are naturals, as written. -/
inductive AsmLine where
  | wr (reg : RegName) (value : Nat)
  | rd (reg : RegName)
  | bw (addr b : Nat)
  | br (addr : Nat)
  | construct
  | bsePbit (bit : Nat)
  | bsePbits (val cnt : Nat)
  | bsePbyte (byte : Nat)
  | bsePbytes
  | bseReset
  | bseResetv
  | bseInterim
  | bseChecksum
  | tdePbyte (byte : Nat)
  | tdePbytes
  | tdeReset
  | tdeResetv
  | tdeInterim
  | tdeChecksum
  | tbRead (sel idx : Nat)
  | augCalc
  /-- `crc.setup W, poly, init, xorout, refin, refout`. -/
  | crcSetup (width poly init xorout refin refout : Nat)
  /-- `bse.pbytes off, n`. -/
  | bsePbytesAt (off n : Nat)
  /-- `bse.pbytes n`, the same at offset 0. -/
  | bsePbytesFromZero (n : Nat)
  /-- `tde.pbytes off, n`. -/
  | tdePbytesAt (off n : Nat)
  /-- `tde.pbytes n`, the same at offset 0. -/
  | tdePbytesFromZero (n : Nat)
  /-- `bse.resetv v`. -/
  | bseResetvTo (v : Nat)
  /-- `tde.resetv v`. -/
  | tdeResetvTo (v : Nat)
  /-- `aug.calc off, n, r0`. -/
  | augCalcAt (off n r0 : Nat)
  /-- `buf.put addr, b0 b1 .. bk`. -/
  | bufPut (addr : Nat) (bytes : List Nat)
  /-- `buf.be addr, n, v`. -/
  | bufBe (addr n v : Nat)
deriving DecidableEq, Repr

end Sys2Proof
end

