-- ==== Sys2Proof/WellFormed.lean ====
section
/-! DEFINITION. When a written line is well formed: "an operand out of its field's range (`byte > 255`,
`cnt > 15`) is an assembler error, not a command" (30_encoding.md R83, with the ranges of R78).

A term of `Instr` needs no such check: its operand types have the widths of their fields.  The host's own duties
about registers, addresses and values (R228) are judged by the machine when the transaction is issued. -/

namespace Sys2Proof

/-- `AsmLine.wellFormed l`: every inline operand of the line is in the range of its field (R78, R83).  Lines whose
operands are all carried by register or buffer transactions have no inline field to overflow. -/
def AsmLine.wellFormed : AsmLine → Bool
  | .bsePbit bit => decide (bit < 2)
  | .bsePbits val cnt => decide (val < 256) && decide (cnt < 16)
  | .bsePbyte byte => decide (byte < 256)
  | .tdePbyte byte => decide (byte < 256)
  | .tbRead sel idx => decide (sel < 2) && decide (idx < 256)
  | .crcSetup _ _ _ _ refin refout => decide (refin < 2) && decide (refout < 2)
  | .wr _ _ | .rd _ | .bw _ _ | .br _ | .construct | .bsePbytes | .bseReset | .bseResetv | .bseInterim
  | .bseChecksum | .tdePbytes | .tdeReset | .tdeResetv | .tdeInterim | .tdeChecksum | .augCalc
  | .bsePbytesAt _ _ | .bsePbytesFromZero _ | .tdePbytesAt _ _ | .tdePbytesFromZero _ | .bseResetvTo _
  | .tdeResetvTo _ | .augCalcAt _ _ _ | .bufPut _ _ | .bufBe _ _ _ => true

end Sys2Proof
end

