-- ==== Sys2Proof/Decode.lean ====
section
/-! DEFINITION. Decoding a command word and encoding a command (30_encoding.md R71, R73 to R81).

The decoder is R80's: it finds the row of R79 with `cw AND mask = match`.  It is total on all `2^32` words, reads no
state, and refuses every other word by the name of the class of R81 it falls in. -/

namespace Sys2Proof

/-- Why a word is no command, after the classes of R81.  The machine reports all of them as `ERR_ILLEGAL`. -/
inductive Illegal where
  /-- R81 (a): `unit` 5..15. -/
  | reservedUnit
  /-- R81 (b) to (f): an `op` its unit does not define. -/
  | reservedOp
  /-- R81 (g): a set bit in `cw[23:12]`. -/
  | reservedField
  /-- R81 (h): a set bit in a part of `imm` that the format says must be zero. -/
  | operandField
deriving DecidableEq, Repr

/-- One row of R79: a word `cw` is that command exactly when `cw AND mask = pattern`, and `read` takes its operands
out of the word. -/
structure Row where
  mnemonic : String
  pattern : Word32
  mask : Word32
  read : Word32 → Instr

/-- `cw[0]`, the `bit` of format B (R74). -/
def fieldBit (cw : Word32) : Bool := cw.getLsbD 0

/-- `cw[7:0]`, the `byte`, `val` or `idx` of formats Y, P and T (R75 to R77). -/
def fieldByte (cw : Word32) : Byte := cw.extractLsb' 0 8

/-- `cw[11:8]`, the `cnt` of format P (R76). -/
def fieldCnt (cw : Word32) : BitVec 4 := cw.extractLsb' 8 4

/-- `cw[8]`, the `sel` of format T (R77). -/
def fieldSel (cw : Word32) : Bool := cw.getLsbD 8

/-- The rows of unit 0 (system) and unit 1 (BSE). -/
def rowsSystemBse : List Row := [
  ⟨"construct", 0x01000000, 0xFFFFFFFF, fun _ => .construct⟩,
  ⟨"bse.pbit", 0x10000000, 0xFFFFFFFE, fun cw => .bsePbit (fieldBit cw)⟩,
  ⟨"bse.pbits", 0x11000000, 0xFFFFF000, fun cw => .bsePbits (fieldByte cw) (fieldCnt cw)⟩,
  ⟨"bse.pbyte", 0x12000000, 0xFFFFFF00, fun cw => .bsePbyte (fieldByte cw)⟩,
  ⟨"bse.pbytes", 0x13000000, 0xFFFFFFFF, fun _ => .bsePbytes⟩,
  ⟨"bse.reset", 0x14000000, 0xFFFFFFFF, fun _ => .bseReset⟩,
  ⟨"bse.resetv", 0x15000000, 0xFFFFFFFF, fun _ => .bseResetv⟩,
  ⟨"bse.interim", 0x16000000, 0xFFFFFFFF, fun _ => .bseInterim⟩,
  ⟨"bse.checksum", 0x17000000, 0xFFFFFFFF, fun _ => .bseChecksum⟩]

/-- The rows of unit 2 (TDE), unit 3 (TB) and unit 4 (AUG). -/
def rowsTdeTbAug : List Row := [
  ⟨"tde.pbyte", 0x22000000, 0xFFFFFF00, fun cw => .tdePbyte (fieldByte cw)⟩,
  ⟨"tde.pbytes", 0x23000000, 0xFFFFFFFF, fun _ => .tdePbytes⟩,
  ⟨"tde.reset", 0x24000000, 0xFFFFFFFF, fun _ => .tdeReset⟩,
  ⟨"tde.resetv", 0x25000000, 0xFFFFFFFF, fun _ => .tdeResetv⟩,
  ⟨"tde.interim", 0x26000000, 0xFFFFFFFF, fun _ => .tdeInterim⟩,
  ⟨"tde.checksum", 0x27000000, 0xFFFFFFFF, fun _ => .tdeChecksum⟩,
  ⟨"tb.read", 0x30000000, 0xFFFFFE00, fun cw => .tbRead (fieldSel cw) (fieldByte cw)⟩,
  ⟨"aug.calc", 0x40000000, 0xFFFFFFFF, fun _ => .augCalc⟩]

/-- The opcode map of R79. -/
def rows : List Row := rowsSystemBse ++ rowsTdeTbAug

/-- Whether the word is the row's command (R79). -/
def Row.covers (r : Row) (cw : Word32) : Bool := cw &&& r.mask == r.pattern

/-- Which `op` numbers a unit defines (R79, R81 (b) to (f)). -/
def opDefined (unit op : BitVec 4) : Bool :=
  match unit.toNat with
  | 0 => op == 1
  | 1 => decide (op.toNat < 8)
  | 2 => decide (2 ≤ op.toNat) && decide (op.toNat < 8)
  | 3 => op == 0
  | 4 => op == 0
  | _ => false

/-- The class of R81 that an undecodable word falls in: the first that applies, from the unit down to the operand. -/
def illegalClass (cw : Word32) : Illegal :=
  if 5 ≤ (cw.extractLsb' 28 4).toNat then .reservedUnit
  else if !opDefined (cw.extractLsb' 28 4) (cw.extractLsb' 24 4) then .reservedOp
  else if cw.extractLsb' 12 12 != 0 then .reservedField
  else .operandField

/-- The decoder of R80. -/
def decode (cw : Word32) : Except Illegal Instr :=
  match rows.find? (·.covers cw) with
  | some r => .ok (r.read cw)
  | none => .error (illegalClass cw)

/-- The instruction that the decoder reads from a table row's word (`nbits` bits of it, the rest 0). -/
def decodeTableWord (nbits w : Nat) : Option Instr :=
  if w % 2 ^ nbits < 2 ^ 32 then (decode (BitVec.ofNat 32 (w % 2 ^ nbits))).toOption else none

/-- `cw = match OR imm` with the operands laid out by the command's format (R73 to R77, R83). -/
def encode : Instr → Word32
  | .construct => 0x01000000
  | .bsePbit bit => 0x10000000 ||| (if bit then 1 else 0)
  | .bsePbits val cnt => 0x11000000 ||| (cnt.setWidth 32 <<< 8) ||| val.setWidth 32
  | .bsePbyte byte => 0x12000000 ||| byte.setWidth 32
  | .bsePbytes => 0x13000000
  | .bseReset => 0x14000000
  | .bseResetv => 0x15000000
  | .bseInterim => 0x16000000
  | .bseChecksum => 0x17000000
  | .tdePbyte byte => 0x22000000 ||| byte.setWidth 32
  | .tdePbytes => 0x23000000
  | .tdeReset => 0x24000000
  | .tdeResetv => 0x25000000
  | .tdeInterim => 0x26000000
  | .tdeChecksum => 0x27000000
  | .tbRead sel idx => 0x30000000 ||| (if sel then 0x100 else 0) ||| idx.setWidth 32
  | .augCalc => 0x40000000

end Sys2Proof
end

