-- ==== Sys2Proof/Machine/Primitives.lean ====
section
/-! DEFINITION. The datapath as functions of plain values: the Register Mask Set and the Reflector
(40_primitives_and_construct.md R90 to R95), the bit step and its loops (41_bit_serial_engine.md R111 to R113), the
table (42_table_builder.md R130), the table step (43_table_driven_engine.md R141 to R143) and the augmented step
(44_augmented_engine.md R161).

Every function takes the register capacity `W` as a variable, so it is the spec's function for every `REGW`. -/

namespace Sys2Proof.Machine

/-- `highBitMask(w) = shl(1, w-1)` (R90); `HIGH` at `w = P_W`. -/
def highBitMask (W w : Nat) : BitVec W := 1#W <<< (w - 1)

/-- `significantBitsMask(w) = NOT shl(NOT 0, w)` (R91); `SIG` at `w = P_W`. -/
def significantBitsMask (W w : Nat) : BitVec W := ~~~((~~~0#W) <<< w)

/-- `reflect(x, bits)`: bit `i` of `x` becomes bit `bits-1-i`, and nothing at or above `bits` is copied (R93). -/
def reflect {W : Nat} (x : BitVec W) : Nat → BitVec W
  | 0 => 0
  | bits + 1 => (reflect x bits <<< 1) ||| (if x.getLsbD bits then 1 else 0)

/-- `reflectHelper(x, f)` at `P_W = w` (R94). -/
def reflectHelper {W : Nat} (w : Nat) (x : BitVec W) (f : Bool) : BitVec W := if f then reflect x w else x

/-- `BitStep(bit)`: one step of polynomial long division on the remainder (R111). -/
def bitStep {W : Nat} (w : Nat) (poly rem : BitVec W) (bit : Bool) : BitVec W :=
  let rem := if bit then rem ^^^ highBitMask W w else rem
  let doDiv := rem &&& highBitMask W w != 0
  let rem := rem <<< 1
  if doDiv then rem ^^^ poly else rem

/-- The loop of R112: `cnt` times, the top bit of `v` enters and `v` shifts up. -/
def feedTopBits {W : Nat} (w : Nat) (poly : BitVec W) : Nat → Byte → BitVec W → BitVec W
  | 0, _, rem => rem
  | cnt + 1, v, rem => feedTopBits w poly cnt (v <<< 1) (bitStep w poly rem (v.getLsbD 7))

/-- `ProcessBits(val, cnt)` for `cnt <= 8`: left-align the low `cnt` bits of `val`, then feed them (R112). -/
def processBits {W : Nat} (w : Nat) (poly rem : BitVec W) (val : Byte) (cnt : Nat) : BitVec W :=
  feedTopBits w poly cnt (val <<< (8 - cnt)) rem

/-- Eight bit steps on the bits 7 down to 0 of a byte (R113, and the inner loop of R130). -/
def divideByte {W : Nat} (w : Nat) (poly rem : BitVec W) (b : Byte) : BitVec W :=
  [7, 6, 5, 4, 3, 2, 1, 0].foldl (fun r k => bitStep w poly r (b.getLsbD k)) rem

/-- `BsePByte(byte)`: the byte is reflected first when `P_REFIN = 1` (R113). -/
def bseByte {W : Nat} (w : Nat) (poly : BitVec W) (refin : Bool) (rem : BitVec W) (byte : Byte) : BitVec W :=
  divideByte w poly rem (if refin then reflect byte 8 else byte)

/-- The entry of `buildTable(w, poly, r)` at an index (R130).  The loop stores `reflect(rem, w)` at
`reflect(dividend, 8)`; since reflecting a byte twice gives it back, the entry at `i` is that of the dividend
`reflect(i, 8)`. -/
def tableEntry {W : Nat} (w : Nat) (poly : BitVec W) (r : Bool) (i : Byte) : BitVec W :=
  if r then reflect (divideByte w poly 0 (reflect i 8)) w else divideByte w poly 0 i

/-- `buildTable(w, poly, r)` (R130). -/
def buildTable {W : Nat} (w : Nat) (poly : BitVec W) (r : Bool) : Table W :=
  Vector.ofFn fun i => tableEntry w poly r (BitVec.ofFin i)

/-- `T[i]` for an 8-bit index: never out of range (R186). -/
def readEntry {W : Nat} (t : Table W) (i : Byte) : BitVec W := t[i.toNat]'i.isLt

/-- `index(rem, p, r)` at `P_W = w`, reduced to its low 8 bits (R141). -/
def tableIndex {W : Nat} (w : Nat) (rem : BitVec W) (p : Byte) (r : Bool) : Byte :=
  let t :=
    if r then rem ^^^ p.setWidth W
    else if 8 < w then (rem >>> (w - 8)) ^^^ p.setWidth W
    else (rem <<< (8 - w)) ^^^ p.setWidth W
  t.setWidth 8

/-- `shift(rem, r)` (R142). -/
def tableShift {W : Nat} (rem : BitVec W) (r : Bool) : BitVec W := if r then rem >>> 8 else rem <<< 8

/-- `TdePByte(p)` (R143). -/
def tdeByte {W : Nat} (w : Nat) (table : Table W) (refin : Bool) (rem : BitVec W) (p : Byte) : BitVec W :=
  tableShift rem refin ^^^ readEntry table (tableIndex w rem p refin)

/-- One byte of `aug.calc`, the mask included (R161, R166). -/
def augByte {W : Nat} (w : Nat) (table : Table W) (rem : BitVec W) (p : Byte) : BitVec W :=
  let idx := (rem >>> (w - 8)).setWidth 8
  ((rem <<< 8 ||| p.setWidth W) ^^^ readEntry table idx) &&& significantBitsMask W w

end Sys2Proof.Machine
end

