-- ==== Sys2Proof/Machine/Params.lean ====
section
/-! DEFINITION. The one instance of the parameters that `State.reset` is taken at.

The spec leaves both open and so does the model: a state carries its block's parameters (`State.params`), and every
definition and statement is for all of them.  The host's interface asks for ONE state after reset, so one pair is
named here (notes/assumptions/1.md and 2.md). -/

namespace Sys2Proof.Machine

/-- `REGW = 64`: R7's "suggested value when nothing else decides"; DESIGN CHOICE, log entry 1.  `BUFSZ = 4096`: the
size R228's example takes; DESIGN CHOICE, log entry 2. -/
def suggestedParams : Sys2Proof.Params where
  regw := 64
  bufsz := 4096
  eight_le_regw := by decide
  one_le_bufsz := by decide
  bufsz_le := by decide

end Sys2Proof.Machine
end

