-- ==== Sys2Proof/Machine/State.lean ====
section
/-! DEFINITION. The state of one block instance (10_state.md R20 to R39), its value after reset (R38, R210), the
host port beside it, and the names of the ways a step can stop. -/

namespace Sys2Proof.Machine

/-- `STATUS.MODE` (R31).  The encoding's value 3 never occurs (U16), so it has no constructor. -/
inductive Mode where
  | unconfigured | ready | faulted
deriving DecidableEq, Repr

/-- The fault causes of R181, codes 1 to 8.  Codes 9 to 15 never occur (U16). -/
inductive ErrCode where
  /-- 1, `ERR_ILLEGAL`. -/
  | illegal
  /-- 2, `ERR_NOT_CONFIGURED`. -/
  | notConfigured
  /-- 3, `ERR_WIDTH`. -/
  | width
  /-- 4, `ERR_PARAM`. -/
  | param
  /-- 5, `ERR_BITCOUNT`. -/
  | bitCount
  /-- 6, `ERR_RANGE`. -/
  | range
  /-- 7, `ERR_AUG_WIDTH`. -/
  | augWidth
  /-- 8, `ERR_FAULTED`: response only, never recorded. -/
  | faulted
deriving DecidableEq, Repr

/-- What the block answers the host: a command's response (R72) or the value of a `RegRead` or `BufRead` (R227).
`RegWrite` and `BufWrite` return no value, so they leave no entry. -/
inductive Answer (p : Params) where
  /-- `OK`. -/
  | ok
  /-- `VAL(v)`. -/
  | val (v : Word p)
  /-- `ERR(code)`. -/
  | err (code : ErrCode)
  /-- The value a `RegRead` returns: the whole register as an unsigned number (R34, R39). -/
  | reg (v : Nat)
  /-- The byte a `BufRead` returns (R53). -/
  | byte (b : Byte)
deriving DecidableEq, Repr

/-- The contents of the message buffer `BUF` (R51): the bytes written since reset, one (address, byte) pair each, by
strictly rising address.  An address with no pair has no value (R38, R52). -/
abbrev Memory := List Host.Cell

/-- The canonical form: addresses strictly rise.  An unlisted address has no value, so no pair can equal it. -/
abbrev Memory.wf (m : Memory) : Prop := m.Pairwise (fun a b => a.1 < b.1)

/-- The complete state of one block instance with the parameters `p` (R20), and below it the model's own host port.
The masks are functions of the width, and locals of a command do not survive it: neither is here. -/
structure Block (p : Params) where
  /-- `BSE_REM`, `REGW` bits, always in natural form (R22). -/
  bseRem : Word p
  /-- `TDE_REM`, `REGW` bits, reflected over `P_W` bits when `P_REFIN = 1` (R23). -/
  tdeRem : Word p
  /-- `CFG_WIDTH`, index 0x00 (R24). -/
  cfgWidth : Word32
  /-- `CFG_POLY`, index 0x01 (R25). -/
  cfgPoly : Word p
  /-- `CFG_INIT`, index 0x02 (R26). -/
  cfgInit : Word p
  /-- `CFG_XOROUT`, index 0x03 (R27). -/
  cfgXorout : Word p
  /-- `CFG_CTRL[1:0]`, index 0x04: bit 0 `REFIN`, bit 1 `REFOUT`.  Bits 31..2 are hardwired zero and not stored (R28). -/
  cfgCtrl : BitVec 2
  /-- `P_W` (R29). -/
  pW : Word32
  /-- `P_POLY` (R29). -/
  pPoly : Word p
  /-- `P_INIT` (R29). -/
  pInit : Word p
  /-- `P_XOROUT` (R29). -/
  pXorout : Word p
  /-- `P_REFIN` (R29). -/
  pRefin : Bool
  /-- `P_REFOUT` (R29). -/
  pRefout : Bool
  /-- `ARG_A`, index 0x05 (R30). -/
  argA : Word p
  /-- `ARG_OFF`, index 0x06 (R30). -/
  argOff : Word32
  /-- `ARG_SIZE`, index 0x07 (R30). -/
  argSize : Word32
  /-- `STATUS.MODE` (R31). -/
  mode : Mode
  /-- `STATUS.RVALID` (R31). -/
  rvalid : Bool
  /-- `STATUS.CODE`: `none` is 0 (R31). -/
  code : Option ErrCode
  /-- `RESULT`, index 0x09 (R32). -/
  result : Word p
  /-- `FAULT_CW`, index 0x0A (R32). -/
  faultCw : Word32
  /-- `TDE_TABLE[0..255]` (R33). -/
  tdeTable : Table p.regw
  /-- `AUG_TABLE[0..255]` (R33). -/
  augTable : Table p.regw
  /-- `BUF[0..BUFSZ-1]` (R51). -/
  buf : Memory
  /-- The MODEL'S own: the host's events not yet issued, next first.  The order of transactions is the host's and no
  state of the block (R21); it stands here so that one deterministic step can take the next.  Log entry 4. -/
  pending : List HostEvent
  /-- The MODEL'S own: the answers the host has received since reset, latest first, which is what a run lets it
  observe (R227).  Log entry 5. -/
  answers : List (Answer p)
  /-- The MODEL'S own: how many free values have been handed out.  Log entry 3. -/
  freeCount : Nat
deriving DecidableEq, Repr

/-- The machine: a block and the parameters it was built with.  `REGW` and `BUFSZ` are no state of the block (R20) and
no step changes them: they stand here as the model's argument (R7, R8), so that a statement about every state is about
every hardware the spec allows. -/
structure State where
  params : Params
  block : Block params
deriving DecidableEq, Repr

/-- A block right after reset (R38, R210), with no event pending.  The zeros of `bseRem`, `tdeRem`, the `p…`
registers, `result` and both tables are DESIGN CHOICES (log entry 6): the spec leaves them unspecified. -/
def Block.reset {p : Params} : Block p where
  bseRem := 0
  tdeRem := 0
  cfgWidth := 0
  cfgPoly := 0
  cfgInit := 0
  cfgXorout := 0
  cfgCtrl := 0
  pW := 0
  pPoly := 0
  pInit := 0
  pXorout := 0
  pRefin := false
  pRefout := false
  argA := 0
  argOff := 0
  argSize := 0
  mode := .unconfigured
  rvalid := false
  code := none
  result := 0
  faultCw := 0
  tdeTable := Vector.replicate 256 0
  augTable := Vector.replicate 256 0
  buf := []
  pending := []
  answers := []
  freeCount := 0

/-- The machine right after reset, at the parameters the model names (log entries 1 and 2). -/
def State.reset : State := ⟨suggestedParams, Block.reset⟩

/-- The ways the MODEL stops at something the spec says does not exist.  The block's own faults (R180) are none of
these: they are next states, by fault entry (R183). -/
inductive Fault where
  /-- Raised by a `RegRead` or `RegWrite` at an index above 0x0A: it "selects nothing" and is no transaction of the
  interface (R34, U10).  Safe. -/
  | noSuchRegister (index : Nat)
  /-- Raised by a `BufRead` or `BufWrite` at an address of `BUFSZ` or above: no transaction of the interface (R53,
  U10).  Safe. -/
  | noSuchBufferAddress (addr : Nat)
deriving DecidableEq, Repr

/-- The ways the MODEL refuses to give an event a meaning. -/
inductive Refusal where
  /-- Raised by `exec` for an instruction without a meaning in this model.  Safe. -/
  | notModelled (mnemonic : String)
  /-- Raised by `bse.pbytes`, `tde.pbytes` and `aug.calc` when the range holds a byte not written since reset: "the
  model must refuse to give the command a meaning" (R52, U8).  Safe. -/
  | unwrittenByte (addr : Nat)
  /-- Raised by a `BufWrite` of a value above 255, which is no transaction of the interface (R53, U10).  Safe. -/
  | byteTooWide (b : Nat)
  /-- Raised by a `RegWrite` of a value wider than the register, which an access at the register's own width cannot
  carry (R34).  DEDUCED, log entry 7.  Safe. -/
  | valueTooWide (index v : Nat)
deriving DecidableEq, Repr

/-- What executing an event or a command comes to. -/
abbrev Outcome := Host.Outcome State Fault Refusal

end Sys2Proof.Machine
end

