-- ==== Sys2Proof/Machine/Ops.lean ====
section
/-! DEFINITION. The named operations over the buffer, the registers and the response, fault entry, and the guard every
command passes (20_memory.md R52, R53; 30_encoding.md R72; 60_exceptions.md R182 to R184). -/

namespace Sys2Proof.Machine

/-- `BUF[addr]`, when it has been written since reset (R52). -/
def Memory.read : Memory → Nat → Option Byte
  | [], _ => none
  | c :: m, addr => if c.1 = addr then some c.2 else Memory.read m addr

/-- `BUF[addr] <- b`, keeping addresses strictly rising (R53). -/
def Memory.write : Memory → Nat → Byte → Memory
  | [], addr, b => [(addr, b)]
  | c :: m, addr, b =>
    if addr < c.1 then (addr, b) :: c :: m
    else if addr = c.1 then (addr, b) :: m
    else c :: Memory.write m addr b

/-- The bytes `MemRead(off + i, 1)` for `i = 0 .. n-1` in that order (R52), or the first address that has not been
written since reset. -/
def Memory.readRange (m : Memory) : Nat → Nat → Except Nat (List Byte)
  | _, 0 => .ok []
  | off, n + 1 =>
    match m.read off with
    | none => .error off
    | some b =>
      match Memory.readRange m (off + 1) n with
      | .ok bs => .ok (b :: bs)
      | .error addr => .error addr

variable {p : Params}

/-- `P_W` as a natural number. -/
def Block.width (b : Block p) : Nat := b.pW.toNat

/-- `HIGH` (R90). -/
def Block.high (b : Block p) : Word p := highBitMask p.regw b.width

/-- `SIG` (R91). -/
def Block.sig (b : Block p) : Word p := significantBitsMask p.regw b.width

/-- The host receives an answer; nothing of the block changes (R72). -/
def Block.answer (b : Block p) (a : Answer p) : Block p := { b with answers := a :: b.answers }

/-- `BSE_REM <- v`. -/
def Block.withBseRem (b : Block p) (v : Word p) : Block p := { b with bseRem := v }

/-- `TDE_REM <- v`. -/
def Block.withTdeRem (b : Block p) (v : Word p) : Block p := { b with tdeRem := v }

/-- `RESULT <- v; RVALID <- 1` (R32, R72). -/
def Block.withResult (b : Block p) (v : Word p) : Block p := { b with result := v, rvalid := true }

/-- `MODE <- FAULTED; CODE <- code; FAULT_CW <- cw`, and nothing else (R183). -/
def Block.enterFault (b : Block p) (code : ErrCode) (cw : Word32) : Block p :=
  { b with mode := .faulted, code := some code, faultCw := cw }

/-- The machine goes on with this block; its parameters stay. -/
def goOn (b : Block p) : Outcome := .next ⟨p, b⟩

/-- `respond OK`. -/
def respondOk (b : Block p) : Outcome := goOn (b.answer .ok)

/-- `RESULT <- v; RVALID <- 1; respond VAL(v)`. -/
def respondVal (b : Block p) (v : Word p) : Outcome := goOn ((b.withResult v).answer (.val v))

/-- `raise Fault(code)` in `Command(cw)`: fault entry on the state before the command, then `ERR(code)` (R183). -/
def raiseFault (b : Block p) (code : ErrCode) (cw : Word32) : Outcome :=
  goOn ((b.enterFault code cw).answer (.err code))

/-- A command in `MODE = FAULTED`: `ERR(ERR_FAULTED)`, and no state changes at all (R182 (1), R184). -/
def respondFaulted (b : Block p) : Outcome := goOn (b.answer (.err .faulted))

/-- Checks (1) and (3) of R182 for every command but `construct`, in front of the command's own rule. -/
def whenReady (i : Instr) (b : Block p) (body : Outcome) : Outcome :=
  match b.mode with
  | .faulted => respondFaulted b
  | .unconfigured => raiseFault b .notConfigured (encode i)
  | .ready => body

/-- A word no row matches: check (1), then check (2) of R182. -/
def illegalCommand (cw : Word32) (b : Block p) : Outcome :=
  match b.mode with
  | .faulted => respondFaulted b
  | .unconfigured | .ready => raiseFault b .illegal cw

end Sys2Proof.Machine
end

