-- ==== Sys2Proof/Machine/Operands.lean ====
section
/-! DEFINITION. The register operand forms (30_encoding.md R78, 20_memory.md R58): the checked buffer range of
`ARG_OFF` and `ARG_SIZE`.  The inline operands are the constructors' own fields, taken out of the word by Decode.lean
and used as they stand; `ARG_A` is read by name. -/

namespace Sys2Proof.Machine

/-- `off + n <= BUFSZ` with the sum formed without wrap-around (R58). -/
def Block.rangeOk {p : Params} (b : Block p) : Bool := decide (b.argOff.toNat + b.argSize.toNat ≤ p.bufsz)

/-- The bytes a range command reads, in order (R52, R58). -/
def Block.message {p : Params} (b : Block p) : Except Nat (List Byte) := b.buf.readRange b.argOff.toNat b.argSize.toNat

/-- The body of the three commands that read a range: `ERR_RANGE` before any byte is read (R58), a refusal where a
byte of the range has not been written (R52), else the command's own use of the bytes. -/
def withMessage (i : Instr) {p : Params} (b : Block p) (use : List Byte → Outcome) : Outcome :=
  if b.rangeOk then
    match b.message with
    | .ok bytes => use bytes
    | .error addr => .refused (.unwrittenByte addr)
  else raiseFault b .range (encode i)

end Sys2Proof.Machine
end

