-- ==== Sys2Proof/Machine/Augmented.lean ====
section
/-! DEFINITION. The Augmented Engine, unit AUG (44_augmented_engine.md R160 to R162, R166).  It owns no register: only
`RESULT` and `RVALID` are written. -/

namespace Sys2Proof.Machine

/-- `aug.calc` (R161): `ERR_AUG_WIDTH` first (R162), then `ERR_RANGE`, both before any byte is read. -/
def execAugCalc : State → Outcome
  | ⟨_, b⟩ =>
    whenReady .augCalc b <|
      if b.width % 8 ≠ 0 then raiseFault b .augWidth (encode .augCalc)
      else withMessage .augCalc b fun bytes =>
        respondVal b (bytes.foldl (augByte b.width b.augTable) b.argA &&& b.sig)

end Sys2Proof.Machine
end

