-- ==== Sys2Proof/Machine/BitSerial.lean ====
section
/-! DEFINITION. The Bit-Serial Engine, unit BSE (41_bit_serial_engine.md R110 to R118). -/

namespace Sys2Proof.Machine

/-- `bse.pbit bit` (R111). -/
def execBsePbit (bit : Bool) : State → Outcome
  | ⟨_, b⟩ =>
    whenReady (.bsePbit bit) b (respondOk (b.withBseRem (bitStep b.width b.pPoly b.bseRem bit)))

/-- `bse.pbits val, cnt` (R112): `ERR_BITCOUNT` before any bit when `cnt > 8`; `P_REFIN` is not consulted. -/
def execBsePbits (val : Byte) (cnt : BitVec 4) : State → Outcome
  | ⟨_, b⟩ =>
    whenReady (.bsePbits val cnt) b <|
      if 8 < cnt.toNat then raiseFault b .bitCount (encode (.bsePbits val cnt))
      else respondOk (b.withBseRem (processBits b.width b.pPoly b.bseRem val cnt.toNat))

/-- `bse.pbyte byte` (R113). -/
def execBsePbyte (byte : Byte) : State → Outcome
  | ⟨_, b⟩ =>
    whenReady (.bsePbyte byte) b (respondOk (b.withBseRem (bseByte b.width b.pPoly b.pRefin b.bseRem byte)))

/-- `bse.pbytes` (R114). -/
def execBsePbytes : State → Outcome
  | ⟨_, b⟩ =>
    whenReady .bsePbytes b <| withMessage .bsePbytes b fun bytes =>
      respondOk (b.withBseRem (bytes.foldl (bseByte b.width b.pPoly b.pRefin) b.bseRem))

/-- `bse.reset` (R115): no reflection, whatever `P_REFIN` is. -/
def execBseReset : State → Outcome
  | ⟨_, b⟩ =>
    whenReady .bseReset b (respondOk (b.withBseRem b.pInit))

/-- `bse.resetv` (R116): `ARG_A` in natural form, surplus bits included. -/
def execBseResetv : State → Outcome
  | ⟨_, b⟩ =>
    whenReady .bseResetv b (respondOk (b.withBseRem b.argA))

/-- `bse.interim` (R117). -/
def execBseInterim : State → Outcome
  | ⟨_, b⟩ =>
    whenReady .bseInterim b (respondVal b (b.bseRem &&& b.sig))

/-- `bse.checksum` (R118): `P_REFOUT` alone decides the reflection. -/
def execBseChecksum : State → Outcome
  | ⟨_, b⟩ =>
    whenReady .bseChecksum b (respondVal b ((reflectHelper b.width b.bseRem b.pRefout ^^^ b.pXorout) &&& b.sig))

end Sys2Proof.Machine
end

