-- ==== Sys2Proof/Machine/Construct.lean ====
section
/-! DEFINITION. The system unit: `construct` (40_primitives_and_construct.md R96 to R98). -/

namespace Sys2Proof.Machine

/-- What a `construct` that passes its checks writes: the active parameters, both tables, both remainders and
`MODE = READY` (R96). -/
def Block.latch {p : Params} (b : Block p) : Block p :=
  { b with
    pW := b.cfgWidth
    pPoly := b.cfgPoly
    pInit := b.cfgInit
    pXorout := b.cfgXorout
    pRefin := b.cfgCtrl.getLsbD 0
    pRefout := b.cfgCtrl.getLsbD 1
    tdeTable := buildTable b.cfgWidth.toNat b.cfgPoly (b.cfgCtrl.getLsbD 0)
    augTable := buildTable b.cfgWidth.toNat b.cfgPoly false
    bseRem := b.cfgInit
    tdeRem := reflectHelper b.cfgWidth.toNat b.cfgInit (b.cfgCtrl.getLsbD 0)
    mode := .ready }

/-- The checks of `construct`, in order: `ERR_WIDTH`, then `ERR_PARAM` (R96, R182 (4)).  The width is checked before
any shift by it. -/
def Block.constructError {p : Params} (b : Block p) : Option ErrCode :=
  if b.cfgWidth.toNat < 1 ∨ p.regw < b.cfgWidth.toNat then some .width
  else if b.cfgPoly >>> b.cfgWidth.toNat ≠ 0 then some .param
  else if b.cfgInit >>> b.cfgWidth.toNat ≠ 0 then some .param
  else none

/-- `construct` (R96).  Legal in `UNCONFIGURED` and in `READY`; in `FAULTED` it is answered as any command (R184). -/
def execConstruct : State → Outcome
  | ⟨_, b⟩ =>
    match b.mode with
    | .faulted => respondFaulted b
    | .unconfigured | .ready =>
      match b.constructError with
      | some code => raiseFault b code (encode .construct)
      | none => respondOk b.latch

end Sys2Proof.Machine
end

