-- ==== Sys2Proof/Machine/TableBuilder.lean ====
section
/-! DEFINITION. The Table Builder's one command, unit TB (42_table_builder.md R133).  The table itself is
`buildTable` in Primitives.lean, evaluated by `construct` (R131). -/

namespace Sys2Proof.Machine

/-- `tb.read sel, idx` (R133): one entry, masked; the raw entry never leaves the block. -/
def execTbRead (sel : Bool) (idx : Byte) : State → Outcome
  | ⟨_, b⟩ =>
    whenReady (.tbRead sel idx) b
      (respondVal b (readEntry (if sel then b.augTable else b.tdeTable) idx &&& b.sig))

end Sys2Proof.Machine
end

