-- ==== Sys2Proof/Machine/TableDriven.lean ====
section
/-! DEFINITION. The Table-Driven Engine, unit TDE (43_table_driven_engine.md R140 to R148).  It has no bit-level
commands (R149). -/

namespace Sys2Proof.Machine

/-- `tde.pbyte byte` (R143). -/
def execTdePbyte (byte : Byte) : State → Outcome
  | ⟨_, b⟩ =>
    whenReady (.tdePbyte byte) b (respondOk (b.withTdeRem (tdeByte b.width b.tdeTable b.pRefin b.tdeRem byte)))

/-- `tde.pbytes` (R144). -/
def execTdePbytes : State → Outcome
  | ⟨_, b⟩ =>
    whenReady .tdePbytes b <| withMessage .tdePbytes b fun bytes =>
      respondOk (b.withTdeRem (bytes.foldl (tdeByte b.width b.tdeTable b.pRefin) b.tdeRem))

/-- `tde.reset` (R145): the remainder `construct` gave. -/
def execTdeReset : State → Outcome
  | ⟨_, b⟩ =>
    whenReady .tdeReset b (respondOk (b.withTdeRem (reflectHelper b.width b.pInit b.pRefin)))

/-- `tde.resetv` (R146): `ARG_A` in natural form, reflected as `construct` does. -/
def execTdeResetv : State → Outcome
  | ⟨_, b⟩ =>
    whenReady .tdeResetv b (respondOk (b.withTdeRem (reflectHelper b.width b.argA b.pRefin)))

/-- `tde.interim` (R147): the input reflection is undone, no final XOR. -/
def execTdeInterim : State → Outcome
  | ⟨_, b⟩ =>
    whenReady .tdeInterim b (respondVal b (reflectHelper b.width b.tdeRem b.pRefin &&& b.sig))

/-- `tde.checksum` (R148): reflected once more exactly when the two flags differ. -/
def execTdeChecksum : State → Outcome
  | ⟨_, b⟩ =>
    whenReady .tdeChecksum b
      (respondVal b ((reflectHelper b.width b.tdeRem (b.pRefout ^^ b.pRefin) ^^^ b.pXorout) &&& b.sig))

end Sys2Proof.Machine
end

