-- ==== Sys2Proof/Machine/Dispatch.lean ====
section
/-! DEFINITION. Executing one decoded command: one arm per constructor of Instr (30_encoding.md R79). -/

namespace Sys2Proof.Machine

def exec (i : Instr) (s : State) : Host.Outcome State Fault Refusal :=
  match i with
  | .construct => Sys2Proof.Machine.execConstruct s
  | .bsePbit bit => Sys2Proof.Machine.execBsePbit bit s
  | .bsePbits val cnt => Sys2Proof.Machine.execBsePbits val cnt s
  | .bsePbyte byte => Sys2Proof.Machine.execBsePbyte byte s
  | .bsePbytes => Sys2Proof.Machine.execBsePbytes s
  | .bseReset => Sys2Proof.Machine.execBseReset s
  | .bseResetv => Sys2Proof.Machine.execBseResetv s
  | .bseInterim => Sys2Proof.Machine.execBseInterim s
  | .bseChecksum => Sys2Proof.Machine.execBseChecksum s
  | .tdePbyte byte => Sys2Proof.Machine.execTdePbyte byte s
  | .tdePbytes => Sys2Proof.Machine.execTdePbytes s
  | .tdeReset => Sys2Proof.Machine.execTdeReset s
  | .tdeResetv => Sys2Proof.Machine.execTdeResetv s
  | .tdeInterim => Sys2Proof.Machine.execTdeInterim s
  | .tdeChecksum => Sys2Proof.Machine.execTdeChecksum s
  | .tbRead sel idx => Sys2Proof.Machine.execTbRead sel idx s
  | .augCalc => Sys2Proof.Machine.execAugCalc s

end Sys2Proof.Machine
end

