-- ==== Sys2Proof/Machine/Flags.lean ====
section
/-! DEFINITION. The status register as the host reads it (10_state.md R31, 60_exceptions.md R181).  There are no
condition codes, no carry or zero flag (R35). -/

namespace Sys2Proof.Machine

/-- The two bits of `STATUS.MODE` (R31). -/
def Mode.bits : Mode → Nat
  | .unconfigured => 0
  | .ready => 1
  | .faulted => 2

/-- The code of a fault (R181). -/
def ErrCode.bits : ErrCode → Nat
  | .illegal => 1
  | .notConfigured => 2
  | .width => 3
  | .param => 4
  | .bitCount => 5
  | .range => 6
  | .augWidth => 7
  | .faulted => 8

/-- `STATUS.CODE`: 0 when no fault was taken (R31). -/
def Block.codeBits {p : Params} (b : Block p) : Nat :=
  match b.code with
  | none => 0
  | some c => c.bits

/-- `STATUS`: `MODE` in bits 1..0, `RVALID` in bit 2, `CODE` in bits 7..4, every other bit 0 (R31). -/
def Block.statusWord {p : Params} (b : Block p) : Word32 :=
  BitVec.ofNat 32 (b.mode.bits + (if b.rvalid then 4 else 0) + 16 * b.codeBits)

end Sys2Proof.Machine
end

