-- ==== Sys2Proof/Machine/HostPort.lean ====
section
/-! DEFINITION. The host port: the register map and the four transactions that are not commands (10_state.md R34,
R39; 20_memory.md R53), the `Command` transaction (30_encoding.md R70, 60_exceptions.md R182), and reset
(70_reset_and_hazards.md R210). -/

namespace Sys2Proof.Machine

/-- The register index map of R34. -/
def regIndex : RegName → Nat
  | .cfgWidth => 0x00
  | .cfgPoly => 0x01
  | .cfgInit => 0x02
  | .cfgXorout => 0x03
  | .cfgCtrl => 0x04
  | .argA => 0x05
  | .argOff => 0x06
  | .argSize => 0x07
  | .status => 0x08
  | .result => 0x09
  | .faultCw => 0x0A

/-- The register an index selects; 0x0B and above select nothing (R34). -/
def regAt : Nat → Option RegName
  | 0x00 => some .cfgWidth
  | 0x01 => some .cfgPoly
  | 0x02 => some .cfgInit
  | 0x03 => some .cfgXorout
  | 0x04 => some .cfgCtrl
  | 0x05 => some .argA
  | 0x06 => some .argOff
  | 0x07 => some .argSize
  | 0x08 => some .status
  | 0x09 => some .result
  | 0x0A => some .faultCw
  | _ => none

variable {p : Params}

/-- The width a register is accessed at: 32 bits or `REGW` (R24 to R32, R34). -/
def regWidth (p : Params) : RegName → Nat
  | .cfgWidth | .cfgCtrl | .argOff | .argSize | .status | .faultCw => 32
  | .cfgPoly | .cfgInit | .cfgXorout | .argA | .result => p.regw

/-- The value a register holds, whole (R39). -/
def Block.readReg (b : Block p) : RegName → Nat
  | .cfgWidth => b.cfgWidth.toNat
  | .cfgPoly => b.cfgPoly.toNat
  | .cfgInit => b.cfgInit.toNat
  | .cfgXorout => b.cfgXorout.toNat
  | .cfgCtrl => b.cfgCtrl.toNat
  | .argA => b.argA.toNat
  | .argOff => b.argOff.toNat
  | .argSize => b.argSize.toNat
  | .status => b.statusWord.toNat
  | .result => b.result.toNat
  | .faultCw => b.faultCw.toNat

/-- The effect of a register write: read/write registers store the value, `CFG_CTRL` its bits 1..0, and read-only
registers ignore it (R28, R31, R32, R39). -/
def Block.writeReg (b : Block p) (v : Nat) : RegName → Block p
  | .cfgWidth => { b with cfgWidth := BitVec.ofNat 32 v }
  | .cfgPoly => { b with cfgPoly := BitVec.ofNat p.regw v }
  | .cfgInit => { b with cfgInit := BitVec.ofNat p.regw v }
  | .cfgXorout => { b with cfgXorout := BitVec.ofNat p.regw v }
  | .cfgCtrl => { b with cfgCtrl := BitVec.ofNat 2 v }
  | .argA => { b with argA := BitVec.ofNat p.regw v }
  | .argOff => { b with argOff := BitVec.ofNat 32 v }
  | .argSize => { b with argSize := BitVec.ofNat 32 v }
  | .status | .result | .faultCw => b

/-- One more free value has been handed out. -/
def Block.tick (b : Block p) : Block p := { b with freeCount := b.freeCount + 1 }

/-- `RegRead(i)` (R39).  `RESULT` before any command returned a value is a free value (R32, U9; log entry 3). -/
def regRead (i : Nat) (b : Block p) : Outcome :=
  match regAt i with
  | none => .fault (.noSuchRegister i)
  | some r =>
    if r = .result ∧ b.rvalid = false then
      goOn (b.tick.answer (.reg (Config.freeWord p.regw b.freeCount).toNat))
    else goOn (b.answer (.reg (b.readReg r)))

/-- `RegWrite(i, v)` (R39).  A value wider than the register is refused (R34; log entry 7). -/
def regWrite (i v : Nat) (b : Block p) : Outcome :=
  match regAt i with
  | none => .fault (.noSuchRegister i)
  | some r => if v < 2 ^ regWidth p r then goOn (b.writeReg v r) else .refused (.valueTooWide i v)

/-- `BufRead(addr)` (R53).  A byte not written since reset is a free value (U9; log entry 3). -/
def bufRead (addr : Nat) (b : Block p) : Outcome :=
  if addr < p.bufsz then
    match b.buf.read addr with
    | some v => goOn (b.answer (.byte v))
    | none => goOn (b.tick.answer (.byte (Config.freeByte b.freeCount)))
  else .fault (.noSuchBufferAddress addr)

/-- `BufWrite(addr, v)` (R53). -/
def bufWrite (addr v : Nat) (b : Block p) : Outcome :=
  if addr < p.bufsz then
    if v < 256 then goOn { b with buf := b.buf.write addr (BitVec.ofNat 8 v) }
    else .refused (.byteTooWide v)
  else .fault (.noSuchBufferAddress addr)

/-- `Command(cw)` (R80, R182): decoding reads no state, so a decoded command makes checks (1) and (3) itself. -/
def command (cw : Word32) (b : Block p) : Outcome :=
  match decode cw with
  | .ok i => exec i ⟨p, b⟩
  | .error _ => illegalCommand cw b

/-- Reset (R210): every register takes its reset value, and a new run begins with no answer received (R227).  The
host's own position in its events is no state of the block (R20) and stays, as does the count of free values. -/
def resetBlock (b : Block p) : Block p := { Block.reset with pending := b.pending, freeCount := b.freeCount }

/-- One event of the host port, performed completely (R70). -/
def perform (e : HostEvent) (b : Block p) : Outcome :=
  match e with
  | .regRead i => regRead i b
  | .regWrite i v => regWrite i v b
  | .bufRead addr => bufRead addr b
  | .bufWrite addr v => bufWrite addr v b
  | .command cw => command cw b
  | .reset => goOn (resetBlock b)

end Sys2Proof.Machine
end

