-- ==== Sys2Proof/Machine/Step.lean ====
section
/-! DEFINITION. One step of the machine: the host's next event, performed completely before the one after it
(30_encoding.md R70; 20_memory.md R60; 70_reset_and_hazards.md R227). -/

namespace Sys2Proof.Machine

/-- The next pending event is issued and performed.  With none pending the block is quiescent and holds its state
(R195, R227). -/
def step (s : State) : Host.Outcome State Fault Refusal :=
  match s.block.pending with
  | [] => .next s
  | e :: rest => perform e { s.block with pending := rest }

/-- The host's next event is `Command` of a table row's word (log entry 4). -/
def State.withFetchWord (s : State) (nbits w : Nat) : State :=
  { s with block := { s.block with
      pending := .command (BitVec.ofNat 32 (w % 2 ^ nbits)) :: s.block.pending } }

end Sys2Proof.Machine
end

