-- ==== Sys2Proof/Machine/Assembler.lean ====
section
/-! DEFINITION. The assembler: what each written line stands for, as events of the host port (30_encoding.md R83,
R84; `HostWriteBE` is 20_memory.md R53). -/

namespace Sys2Proof.Machine

/-- `HostWriteBE(addr, n, v)`: `BufWrite(addr + j, shr(v, 8*(n-1-j)) AND 0xFF)` for `j = 0 .. n-1` (R53). -/
def hostWriteBE (addr n v : Nat) : List HostEvent :=
  (List.range n).map fun j => .bufWrite (addr + j) (v / 2 ^ (8 * (n - 1 - j)) % 256)

/-- `buf.put addr, b0 b1 .. bk` (R84). -/
def bufPut : Nat → List Nat → List HostEvent
  | _, [] => []
  | addr, b :: bs => .bufWrite addr b :: bufPut (addr + 1) bs

/-- `wr REG, value` (R83). -/
def wr (r : RegName) (v : Nat) : HostEvent := .regWrite (regIndex r) v

/-- A command by its inline operands (R83). -/
def cmd (i : Instr) : HostEvent := .command (encode i)

/-- The events of a well-formed line (R83, R84). -/
def expand : AsmLine → List HostEvent
  | .wr r v => [wr r v]
  | .rd r => [.regRead (regIndex r)]
  | .bw addr b => [.bufWrite addr b]
  | .br addr => [.bufRead addr]
  | .construct => [cmd .construct]
  | .bsePbit bit => [cmd (.bsePbit (bit == 1))]
  | .bsePbits val cnt => [cmd (.bsePbits (BitVec.ofNat 8 val) (BitVec.ofNat 4 cnt))]
  | .bsePbyte byte => [cmd (.bsePbyte (BitVec.ofNat 8 byte))]
  | .bsePbytes => [cmd .bsePbytes]
  | .bseReset => [cmd .bseReset]
  | .bseResetv => [cmd .bseResetv]
  | .bseInterim => [cmd .bseInterim]
  | .bseChecksum => [cmd .bseChecksum]
  | .tdePbyte byte => [cmd (.tdePbyte (BitVec.ofNat 8 byte))]
  | .tdePbytes => [cmd .tdePbytes]
  | .tdeReset => [cmd .tdeReset]
  | .tdeResetv => [cmd .tdeResetv]
  | .tdeInterim => [cmd .tdeInterim]
  | .tdeChecksum => [cmd .tdeChecksum]
  | .tbRead sel idx => [cmd (.tbRead (sel == 1) (BitVec.ofNat 8 idx))]
  | .augCalc => [cmd .augCalc]
  | .crcSetup width poly init xorout refin refout =>
    [wr .cfgWidth width, wr .cfgPoly poly, wr .cfgInit init, wr .cfgXorout xorout,
      wr .cfgCtrl (refin + 2 * refout), cmd .construct]
  | .bsePbytesAt off n => [wr .argOff off, wr .argSize n, cmd .bsePbytes]
  | .bsePbytesFromZero n => [wr .argOff 0, wr .argSize n, cmd .bsePbytes]
  | .tdePbytesAt off n => [wr .argOff off, wr .argSize n, cmd .tdePbytes]
  | .tdePbytesFromZero n => [wr .argOff 0, wr .argSize n, cmd .tdePbytes]
  | .bseResetvTo v => [wr .argA v, cmd .bseResetv]
  | .tdeResetvTo v => [wr .argA v, cmd .tdeResetv]
  | .augCalcAt off n r0 => [wr .argOff off, wr .argSize n, wr .argA r0, cmd .augCalc]
  | .bufPut addr bytes => bufPut addr bytes
  | .bufBe addr n v => hostWriteBE addr n v

/-- A line as events: none where the line is an assembler error (R83). -/
def assemble (l : AsmLine) : Option (List HostEvent) := if l.wellFormed then some (expand l) else none

/-- A program as the host's list of events (R21), placed before the ones already pending. -/
def Block.withProgram {p : Params} (b : Block p) (es : List HostEvent) : Block p :=
  { b with pending := es ++ b.pending }

end Sys2Proof.Machine
end

