-- ==== Sys2Proof/Safety.lean ====
section
/-! DEFINITION. What claims about the machine are stated in: the invariant of every run (70_reset_and_hazards.md R212
and the rules it rests on), the host's duties (R228), agreement of the two streaming engines
(43_table_driven_engine.md R150), success of a run (R227), and two blocks a host cannot tell apart (10_state.md
R36). -/

namespace Sys2Proof.Machine

variable {p : Params}

/-- The value of the last `VAL` response of the run, if there was one (R212, R227). -/
def lastVal : List (Answer p) → Option (Word p)
  | [] => none
  | .val v :: _ => some v
  | .ok :: l | .err _ :: l | .reg _ :: l | .byte _ :: l => lastVal l

/-- Some command of the run answered `ERR` (R227). -/
def someError (l : List (Answer p)) : Bool :=
  l.any fun a =>
    match a with
    | .err _ => true
    | .ok | .val _ | .reg _ | .byte _ => false

/-- The well-formedness predicate of R212 for `MODE = READY`: the width fits, the polynomial and the initial
remainder fit the width, both tables are the built ones, and a reflected `TDE_REM` fits the width (R151). -/
structure Block.ReadyInv (b : Block p) : Prop where
  width_pos : 1 ≤ b.width
  width_le : b.width ≤ p.regw
  poly_lt : b.pPoly.toNat < 2 ^ b.width
  init_lt : b.pInit.toNat < 2 ^ b.width
  tde_table : b.tdeTable = buildTable b.width b.pPoly b.pRefin
  aug_table : b.augTable = buildTable b.width b.pPoly false
  tde_rem : b.pRefin = true → b.tdeRem.toNat < 2 ^ b.width

/-- What holds of the block and its port at every point of a run. -/
structure Block.Inv (b : Block p) : Prop where
  /-- The buffer's pairs are in canonical form. -/
  buf_wf : b.buf.wf
  /-- The buffer holds addresses below `BUFSZ` only (R51). -/
  buf_lt : ∀ c ∈ b.buf, c.1 < p.bufsz
  /-- R212. -/
  ready : b.mode = .ready → b.ReadyInv
  /-- `CODE` is 0 and `FAULT_CW` is 0 while no fault was taken (R31, R212). -/
  no_fault : b.mode ≠ .faulted → b.code = none ∧ b.faultCw = 0
  /-- In `FAULTED`, `CODE` is the fault that was taken, and `ERR_FAULTED` is never recorded (R31, R181). -/
  fault_code : b.mode = .faulted → b.code ≠ none ∧ b.code ≠ some .faulted
  /-- No command has returned a value while the block is `UNCONFIGURED` (R182, R196). -/
  unconfigured : b.mode = .unconfigured → b.rvalid = false
  /-- `RESULT` is the last `VAL` response of the run when `RVALID = 1` (R32, R212). -/
  result_last : b.rvalid = true → lastVal b.answers = some b.result
  /-- A run has met an `ERR` answer exactly when the block is `FAULTED` (R220, R227). -/
  error_iff : someError b.answers = true ↔ b.mode = .faulted

/-- The two streaming engines hold the same natural remainder (R150). -/
def Block.EnginesAgree (b : Block p) : Prop :=
  reflectHelper b.width b.tdeRem b.pRefin &&& b.sig = b.bseRem &&& b.sig

/-- Duty (2) of the host: only existing registers and addresses, only values that fit (R228). -/
def inInterface (p : Params) : HostEvent → Bool
  | .regRead i => (regAt i).isSome
  | .regWrite i v =>
    match regAt i with
    | none => false
    | some r => decide (v < 2 ^ regWidth p r)
  | .bufRead addr => decide (addr < p.bufsz)
  | .bufWrite addr v => decide (addr < p.bufsz) && decide (v < 256)
  | .command _ | .reset => true

/-- Duty (3) of the host: every byte of the operand range has been written since reset (R221, R228). -/
def Block.rangeWritten (b : Block p) : Prop :=
  ∀ addr, b.argOff.toNat ≤ addr → addr < b.argOff.toNat + b.argSize.toNat → (b.buf.read addr).isSome = true

/-- The command passes every check in front of its reads of the operand range, so it reads the range (R58, R114, R144,
R161, R182). -/
def Block.readsRange (b : Block p) : Instr → Bool
  | .bsePbytes | .tdePbytes => decide (b.mode = .ready) && b.rangeOk
  | .augCalc => decide (b.mode = .ready) && b.rangeOk && decide (b.width % 8 = 0)
  | .construct | .bsePbit _ | .bsePbits _ _ | .bsePbyte _ | .bseReset | .bseResetv | .bseInterim | .bseChecksum
  | .tdePbyte _ | .tdeReset | .tdeResetv | .tdeInterim | .tdeChecksum | .tbRead _ _ => false

/-- The host keeps its duties (2) and (3) with this event: it is inside the interface, and a command that reads the
operand range finds every byte of it written (R228). -/
def Block.Dutiful (b : Block p) (e : HostEvent) : Prop :=
  inInterface p e = true ∧ ∀ cw i, e = .command cw → decode cw = .ok i → b.readsRange i = true → b.rangeWritten

/-- A sequence of commands, each on the state the one before left, stopping at the first that stops. -/
def runCommands : List Instr → State → Outcome
  | [], s => .next s
  | i :: is, s =>
    match exec i s with
    | .next t => runCommands is t
    | .fault f => .fault f
    | .refused r => .refused r

/-- From `off` upwards the buffer holds these bytes, all below `BUFSZ`. -/
def Block.Holds (b : Block p) (off : Nat) (bytes : List Byte) : Prop :=
  off + bytes.length ≤ p.bufsz ∧ ∀ k, (h : k < bytes.length) → b.buf.read (off + k) = some bytes[k]

/-- The operand range of the buffer commands is exactly these bytes. -/
def Block.RangeHolds (b : Block p) (bytes : List Byte) : Prop :=
  bytes.length = b.argSize.toNat ∧ b.Holds b.argOff.toNat bytes

/-- An answer as plain numbers: which kind it is, and its value or code.  Answers of two blocks of different register
capacity are compared so. -/
def Answer.plain : Answer p → Nat × Nat
  | .ok => (0, 0)
  | .val v => (1, v.toNat)
  | .err c => (2, c.bits)
  | .reg v => (3, v)
  | .byte v => (4, v.toNat)

/-- Two engines with the same active parameters as numbers, and remainders and table entries with the same bits below
`P_W`: they may differ in register capacity and surplus bits (R36). -/
structure AlikeEngines {p q : Params} (b : Block p) (c : Block q) : Prop where
  pW : b.pW = c.pW
  pPoly : b.pPoly.toNat = c.pPoly.toNat
  pInit : b.pInit.toNat = c.pInit.toNat
  pXorout : b.pXorout.toNat = c.pXorout.toNat
  pRefin : b.pRefin = c.pRefin
  pRefout : b.pRefout = c.pRefout
  bseRem : b.bseRem.toNat % 2 ^ b.width = c.bseRem.toNat % 2 ^ c.width
  tdeRem : b.tdeRem.toNat % 2 ^ b.width = c.tdeRem.toNat % 2 ^ c.width
  tdeTable : ∀ i : Byte, (readEntry b.tdeTable i).toNat % 2 ^ b.width = (readEntry c.tdeTable i).toNat % 2 ^ c.width
  augTable : ∀ i : Byte, (readEntry b.augTable i).toNat % 2 ^ b.width = (readEntry c.augTable i).toNat % 2 ^ c.width

/-- Two blocks that a host cannot tell apart by what the spec gives a value (R36): the same buffer size, buffer, port
and answers, every staged, operand and status register the same number, `RESULT` while `RVALID = 1`, and alike engines
in `READY`.  What is unspecified after reset (R38) is compared nowhere: `RESULT` before a value was returned, and the
active parameters, remainders and tables outside `READY`. -/
structure Alike {p q : Params} (b : Block p) (c : Block q) : Prop where
  bufsz : p.bufsz = q.bufsz
  cfgWidth : b.cfgWidth = c.cfgWidth
  cfgPoly : b.cfgPoly.toNat = c.cfgPoly.toNat
  cfgInit : b.cfgInit.toNat = c.cfgInit.toNat
  cfgXorout : b.cfgXorout.toNat = c.cfgXorout.toNat
  cfgCtrl : b.cfgCtrl = c.cfgCtrl
  argA : b.argA.toNat = c.argA.toNat
  argOff : b.argOff = c.argOff
  argSize : b.argSize = c.argSize
  mode : b.mode = c.mode
  rvalid : b.rvalid = c.rvalid
  code : b.code = c.code
  faultCw : b.faultCw = c.faultCw
  result : b.rvalid = true → b.result.toNat = c.result.toNat
  buf : b.buf = c.buf
  pending : b.pending = c.pending
  answers : b.answers.map Answer.plain = c.answers.map Answer.plain
  engines : b.mode = .ready → AlikeEngines b c

end Sys2Proof.Machine
end

