-- ==== Sys2Proof/Certificates/Slice0/Obligations.lean ====
section
/-! DEFINITION. The statements for the provers, each about one or more numbered rules of spec/.

The first part writes the spec's own formulas down once more, independently of the model's datapath, so that a
statement about an instruction says what its rule says. -/

namespace Sys2Proof.Claims

open Sys2Proof.Machine

/-- `2^(w-1)` (R90). -/
def high (W w : Nat) : BitVec W := BitVec.ofNat W (2 ^ (w - 1))

/-- `2^w - 1` (R91). -/
def sig (W w : Nat) : BitVec W := BitVec.ofNat W (2 ^ w - 1)

/-- The step of R111, the division flag read as bit `w-1`. -/
def divisionStep {W : Nat} (w : Nat) (poly rem : BitVec W) (bit : Bool) : BitVec W :=
  let fed := if bit then rem ^^^ high W w else rem
  if fed.getLsbD (w - 1) then (fed <<< 1) ^^^ poly else fed <<< 1

/-- The bits of a byte in the order they enter the division: most significant first, or least significant first when
the byte is reflected (R55, R113). -/
def bitsInOrder (refin : Bool) (b : Byte) : List Bool :=
  (if refin then [0, 1, 2, 3, 4, 5, 6, 7] else [7, 6, 5, 4, 3, 2, 1, 0]).map b.getLsbD

/-- One byte through the Bit-Serial Engine (R113). -/
def divideInOrder {W : Nat} (w : Nat) (poly : BitVec W) (refin : Bool) (rem : BitVec W) (b : Byte) : BitVec W :=
  (bitsInOrder refin b).foldl (divisionStep w poly) rem

/-- The inner loop of R130 for one dividend. -/
def partialRemainder {W : Nat} (w : Nat) (poly : BitVec W) (dividend : Byte) : BitVec W :=
  [7, 6, 5, 4, 3, 2, 1, 0].foldl
    (fun rem k =>
      let rem := if dividend.getLsbD k then rem ^^^ high W w else rem
      if rem.getLsbD (w - 1) then (rem <<< 1) ^^^ poly else rem <<< 1) 0

/-- The entry of a table at a number reduced to its low 8 bits (R141, R161, R186). -/
def entryAt {W : Nat} (t : Table W) (n : Nat) : BitVec W := t[n % 256]'(Nat.mod_lt n (by decide))

/-- One byte through the Table-Driven Engine: `index`, `shift`, and the table read (R141 to R143). -/
def tableStep {W : Nat} (w : Nat) (t : Table W) (refin : Bool) (rem : BitVec W) (p : Byte) : BitVec W :=
  if refin then (rem >>> 8) ^^^ entryAt t (rem.toNat ^^^ p.toNat)
  else if 8 < w then (rem <<< 8) ^^^ entryAt t ((rem >>> (w - 8)).toNat ^^^ p.toNat)
  else (rem <<< 8) ^^^ entryAt t ((rem <<< (8 - w)).toNat ^^^ p.toNat)

/-- One byte of `aug.calc` without the mask of R166. -/
def augStep {W : Nat} (w : Nat) (t : Table W) (rem : BitVec W) (p : Byte) : BitVec W :=
  (rem <<< 8 ||| p.setWidth W) ^^^ entryAt t (rem >>> (w - 8)).toNat

/-- The commands of the `VAL` rows of R79. -/
def returnsVal : Instr → Bool
  | .bseInterim | .bseChecksum | .tdeInterim | .tdeChecksum | .tbRead _ _ | .augCalc => true
  | .construct | .bsePbit _ | .bsePbits _ _ | .bsePbyte _ | .bsePbytes | .bseReset | .bseResetv | .tdePbyte _
  | .tdePbytes | .tdeReset | .tdeResetv => false

/-- The commands that R22 names as writers of `BSE_REM`. -/
def writesBseRem : Instr → Bool
  | .construct | .bsePbit _ | .bsePbits _ _ | .bsePbyte _ | .bsePbytes | .bseReset | .bseResetv => true
  | .bseInterim | .bseChecksum | .tdePbyte _ | .tdePbytes | .tdeReset | .tdeResetv | .tdeInterim | .tdeChecksum
  | .tbRead _ _ | .augCalc => false

/-- The commands that R23 names as writers of `TDE_REM`. -/
def writesTdeRem : Instr → Bool
  | .construct | .tdePbyte _ | .tdePbytes | .tdeReset | .tdeResetv => true
  | .bsePbit _ | .bsePbits _ _ | .bsePbyte _ | .bsePbytes | .bseReset | .bseResetv | .bseInterim | .bseChecksum
  | .tdeInterim | .tdeChecksum | .tbRead _ _ | .augCalc => false

/-- `STATUS` as R31 lays it out. -/
def statusValue {p : Params} (b : Block p) : Nat :=
  (match b.mode with | .unconfigured => 0 | .ready => 1 | .faulted => 2) + (if b.rvalid then 4 else 0) +
  16 * (match b.code with
    | none => 0 | some .illegal => 1 | some .notConfigured => 2 | some .width => 3 | some .param => 4
    | some .bitCount => 5 | some .range => 6 | some .augWidth => 7 | some .faulted => 8)

/-- Each register index with the register's value (R34). -/
def registerValues {p : Params} (b : Block p) : List (Nat × Nat) :=
  [(0x00, b.cfgWidth.toNat), (0x01, b.cfgPoly.toNat), (0x02, b.cfgInit.toNat), (0x03, b.cfgXorout.toNat),
   (0x04, b.cfgCtrl.toNat), (0x05, b.argA.toNat), (0x06, b.argOff.toNat), (0x07, b.argSize.toNat),
   (0x08, statusValue b), (0x09, b.result.toNat), (0x0A, b.faultCw.toNat)]

/-- Each register index with the register's width and the block after a write of `v` to it (R34, R39). -/
def registerWrites {p : Params} (b : Block p) (v : Nat) : List (Nat × Nat × Block p) :=
  [(0x00, 32, { b with cfgWidth := BitVec.ofNat 32 v }),
   (0x01, p.regw, { b with cfgPoly := BitVec.ofNat p.regw v }),
   (0x02, p.regw, { b with cfgInit := BitVec.ofNat p.regw v }),
   (0x03, p.regw, { b with cfgXorout := BitVec.ofNat p.regw v }),
   (0x04, 32, { b with cfgCtrl := BitVec.ofNat 2 (v % 4) }),
   (0x05, p.regw, { b with argA := BitVec.ofNat p.regw v }),
   (0x06, 32, { b with argOff := BitVec.ofNat 32 v }), (0x07, 32, { b with argSize := BitVec.ofNat 32 v }),
   (0x08, 32, b), (0x09, p.regw, b), (0x0A, 32, b)]

/-- `raise Fault(code)` in a command with the word `cw` (R183). -/
def faulted {p : Params} (b : Block p) (code : ErrCode) (cw : Word32) : Block p :=
  { b with mode := .faulted, code := some code, faultCw := cw, answers := .err code :: b.answers }

/-- What the Bit-Serial Engine can be fed: a bit, the low bits of a byte, or a byte (R111 to R113). -/
inductive Feed where
  | bit (bit : Bool)
  | bits (val : Byte) (cnt : Nat)
  | byte (byte : Byte)

/-- One feed, in a block of capacity `W`. -/
def feedBse {W : Nat} (w : Nat) (poly : BitVec W) (refin : Bool) (rem : BitVec W) : Feed → BitVec W
  | .bit bit => bitStep w poly rem bit
  | .bits val cnt => processBits w poly rem val cnt
  | .byte byte => bseByte w poly refin rem byte

/-- The `interim` and `checksum` responses of the Bit-Serial Engine after any feeds, and then of the Table-Driven
Engine after a message, both from the natural remainder `start`, surplus bits included, in a block of capacity `W`
(R96, R111 to R118, R143 to R148). -/
def streamResponses (W w poly start xorout : Nat) (refin refout : Bool) (feeds : List Feed) (msg : List Byte) :
    List Nat :=
  let P := BitVec.ofNat W poly
  let bse := feeds.foldl (feedBse w P refin) (BitVec.ofNat W start)
  let tde := msg.foldl (tdeByte w (buildTable w P refin) refin) (reflectHelper w (BitVec.ofNat W start) refin)
  [(bse &&& sig W w).toNat,
   ((reflectHelper w bse refout ^^^ BitVec.ofNat W xorout) &&& sig W w).toNat,
   (reflectHelper w tde refin &&& sig W w).toNat,
   ((reflectHelper w tde (refout ^^ refin) ^^^ BitVec.ofNat W xorout) &&& sig W w).toNat]

/-- The response of `aug.calc` in a block of capacity `W` (R161). -/
def augResponse (W w poly r0 : Nat) (msg : List Byte) : Nat :=
  (msg.foldl (augByte w (buildTable w (BitVec.ofNat W poly) false)) (BitVec.ofNat W r0) &&& sig W w).toNat

/-- The buffer after `HostWriteBE(addr, n, v)` (R53). -/
def writtenBE (m : Memory) (addr n v : Nat) : Memory :=
  (List.range n).foldl (fun m j => m.write (addr + j) (BitVec.ofNat 8 (v / 2 ^ (8 * (n - 1 - j))))) m

end Sys2Proof.Claims

open Sys2Proof Sys2Proof.Machine Sys2Proof.Claims

/-! ### Encoding -/

/-- Every command decodes from its own word (R79, R80, R83). -/
def Obligations.DecodeOfEncode : Prop := ∀ i : Instr, decode (encode i) = .ok i

/-- A word that decodes is the word of the command it decodes to: no bit of it is dropped (R79, R80). -/
def Obligations.EncodeOfDecode : Prop := ∀ (cw : Word32) (i : Instr), decode cw = .ok i → encode i = cw

/-- R79: "No two rows overlap". -/
def Obligations.RowsDoNotOverlap : Prop := ∀ cw : Word32, (rows.filter (·.covers cw)).length ≤ 1

/-- R81: a word is illegal exactly when it falls in one of the classes (a) to (h). -/
def Obligations.IllegalWordsAreTheReservedOnes : Prop :=
  ∀ cw : Word32,
    (∃ e, decode cw = .error e) ↔
      (let unit := (cw.extractLsb' 28 4).toNat
       let op := (cw.extractLsb' 24 4).toNat
       let imm := (cw.extractLsb' 0 12).toNat
       5 ≤ unit ∨ (unit = 0 ∧ op ≠ 1) ∨ (unit = 1 ∧ 8 ≤ op) ∨ (unit = 2 ∧ (op ≤ 1 ∨ 8 ≤ op)) ∨
       (unit = 3 ∧ op ≠ 0) ∨ (unit = 4 ∧ op ≠ 0) ∨ cw.extractLsb' 12 12 ≠ 0 ∨
       ((unit = 0 ∨ unit = 4 ∨ ((unit = 1 ∨ unit = 2) ∧ 3 ≤ op)) ∧ imm ≠ 0) ∨
       (unit = 1 ∧ op = 0 ∧ imm / 2 ≠ 0) ∨ ((unit = 1 ∨ unit = 2) ∧ op = 2 ∧ imm / 256 ≠ 0) ∨
       (unit = 3 ∧ imm / 512 ≠ 0))

/-- R83: `cw = match OR imm`, with `imm` laid out by the format. -/
def Obligations.WordsAsAssembled : Prop :=
  (∀ bit, (encode (.bsePbit bit)).toNat = 0x10000000 + bit.toNat) ∧
  (∀ val cnt, (encode (.bsePbits val cnt)).toNat = 0x11000000 + cnt.toNat * 256 + val.toNat) ∧
  (∀ byte, (encode (.bsePbyte byte)).toNat = 0x12000000 + byte.toNat) ∧
  (∀ byte, (encode (.tdePbyte byte)).toNat = 0x22000000 + byte.toNat) ∧
  (∀ sel idx, (encode (.tbRead sel idx)).toNat = 0x30000000 + sel.toNat * 256 + idx.toNat)

/-- Words written out from R83 and V32, one or more of every unit. -/
def Obligations.SpecWordsDecode : Prop :=
  decode 0x01000000 = .ok .construct ∧ decode 0x10000001 = .ok (.bsePbit true) ∧
  decode 0x11000305 = .ok (.bsePbits 0x05 3) ∧ decode 0x12000031 = .ok (.bsePbyte 0x31) ∧
  decode 0x17000000 = .ok .bseChecksum ∧ decode 0x22000039 = .ok (.tdePbyte 0x39) ∧
  decode 0x300001FF = .ok (.tbRead true 0xFF) ∧ decode 0x40000000 = .ok .augCalc ∧
  decode 0x00000000 = .error .reservedOp ∧ decode 0x12100031 = .error .reservedField

/-! ### The step of a command -/

/-- A step issues the host's next event: a command word that decodes to `i` is executed as `i`, on the state with the
event taken off the host's list (R70, R80).  With no event the block holds its state (R195, R227). -/
def Obligations.StepRunsTheDecodedCommand : Prop :=
  (∀ (p : Params) (b : Block p) (cw : Word32) (rest : List HostEvent) (i : Instr),
    b.pending = .command cw :: rest → decode cw = .ok i → step ⟨p, b⟩ = exec i ⟨p, { b with pending := rest }⟩) ∧
  (∀ (p : Params) (b : Block p), b.pending = [] → step ⟨p, b⟩ = .next ⟨p, b⟩)

/-- R182, R184: the order of the checks of `Command(cw)`.  (1) In `FAULTED` every word, legal or not, is answered
`ERR(ERR_FAULTED)` and changes nothing.  (2) Else an illegal word is fault `ERR_ILLEGAL`.  (3) Else any command but
`construct` in `UNCONFIGURED` is fault `ERR_NOT_CONFIGURED`.  (4) Else the command's own rule is executed. -/
def Obligations.OrderOfChecks : Prop :=
  ∀ (p : Params) (b : Block p) (cw : Word32) (rest : List HostEvent), b.pending = .command cw :: rest →
    (b.mode = .faulted → step ⟨p, b⟩ = .next ⟨p, { b with pending := rest, answers := .err .faulted :: b.answers }⟩) ∧
    (∀ e, decode cw = .error e → b.mode ≠ .faulted →
      step ⟨p, b⟩ = .next ⟨p, faulted { b with pending := rest } .illegal cw⟩) ∧
    (∀ i, decode cw = .ok i → i ≠ .construct → b.mode = .unconfigured →
      step ⟨p, b⟩ = .next ⟨p, faulted { b with pending := rest } .notConfigured cw⟩) ∧
    (∀ i, decode cw = .ok i → b.mode = .ready ∨ (b.mode = .unconfigured ∧ i = .construct) →
      step ⟨p, b⟩ = exec i ⟨p, { b with pending := rest }⟩)

/-- R184: no event but reset changes `MODE`, `CODE` or `FAULT_CW` of a `FAULTED` block, nor `RESULT`, `RVALID`, the
remainders, the active parameters and the tables. -/
def Obligations.FaultedUntilReset : Prop :=
  ∀ (p : Params) (b c : Block p) (e : HostEvent) (rest : List HostEvent),
    b.pending = e :: rest → e ≠ .reset → b.mode = .faulted → step ⟨p, b⟩ = .next ⟨p, c⟩ →
    c.mode = .faulted ∧ c.code = b.code ∧ c.faultCw = b.faultCw ∧ c.result = b.result ∧ c.rvalid = b.rvalid ∧
    c.bseRem = b.bseRem ∧ c.tdeRem = b.tdeRem ∧ c.pW = b.pW ∧ c.pPoly = b.pPoly ∧ c.pInit = b.pInit ∧
    c.pXorout = b.pXorout ∧ c.pRefin = b.pRefin ∧ c.pRefout = b.pRefout ∧ c.tdeTable = b.tdeTable ∧
    c.augTable = b.augTable

/-- R72, R79: a command has exactly one answer; `OK` and `VAL` are given by the commands of their rows, a `VAL` is
also in `RESULT` with `RVALID` set, and an `ERR` leaves the block `FAULTED`. -/
def Obligations.CommandAnswersOnce : Prop :=
  ∀ (p : Params) (b c : Block p) (cw : Word32) (rest : List HostEvent),
    b.pending = .command cw :: rest → step ⟨p, b⟩ = .next ⟨p, c⟩ →
    ∃ a, c.answers = a :: b.answers ∧
      match a with
      | .ok => ∃ i, decode cw = .ok i ∧ returnsVal i = false
      | .val v => (∃ i, decode cw = .ok i ∧ returnsVal i = true) ∧ c.result = v ∧ c.rvalid = true
      | .err _ => c.mode = .faulted
      | .reg _ | .byte _ => False

/-- R183: a command that is answered `ERR` has changed nothing but `MODE`, `CODE` and `FAULT_CW`; in a block that was
`FAULTED` already it has not changed these either. -/
def Obligations.FaultsArePrecise : Prop :=
  ∀ (p : Params) (b c : Block p) (cw : Word32) (rest : List HostEvent) (code : ErrCode),
    b.pending = .command cw :: rest → step ⟨p, b⟩ = .next ⟨p, c⟩ → c.answers = .err code :: b.answers →
    (b.mode = .faulted → code = .faulted ∧ c = { b with pending := rest, answers := .err .faulted :: b.answers }) ∧
    (b.mode ≠ .faulted → code ≠ .faulted ∧ c = faulted { b with pending := rest } code cw)

/-- R196: the mode transitions, complete. -/
def Obligations.ModeTransitionsComplete : Prop :=
  ∀ (p : Params) (b c : Block p), step ⟨p, b⟩ = .next ⟨p, c⟩ →
    match b.pending with
    | [] => c.mode = b.mode
    | .reset :: _ => c.mode = .unconfigured
    | .command cw :: _ =>
      (b.mode = .faulted → c.mode = .faulted) ∧
      (b.mode = .unconfigured →
        (c.mode = .faulted ∧ someError (c.answers.take 1) = true) ∨
        (c.mode = .ready ∧ decode cw = .ok .construct ∧ c.answers = .ok :: b.answers)) ∧
      (b.mode = .ready →
        (c.mode = .faulted ∧ someError (c.answers.take 1) = true) ∨
        (c.mode = .ready ∧ someError (c.answers.take 1) = false))
    | .regRead _ :: _ | .regWrite _ _ :: _ | .bufRead _ :: _ | .bufWrite _ _ :: _ => c.mode = b.mode

/-! ### Reset and the invariant -/

/-- R38, R210: what reset leaves, from any state: the values the spec gives, and no byte of the buffer. -/
def Obligations.ResetValues : Prop :=
  ∀ (p : Params) (b : Block p) (rest : List HostEvent), b.pending = .reset :: rest →
    ∃ c : Block p, step ⟨p, b⟩ = .next ⟨p, c⟩ ∧ c.pending = rest ∧ c.cfgWidth = 0 ∧ c.cfgPoly = 0 ∧ c.cfgInit = 0 ∧
      c.cfgXorout = 0 ∧ c.cfgCtrl = 0 ∧ c.argA = 0 ∧ c.argOff = 0 ∧ c.argSize = 0 ∧ c.statusWord = 0 ∧ c.mode = .unconfigured ∧
      c.rvalid = false ∧ c.code = none ∧ c.faultCw = 0 ∧ ∀ addr, c.buf.read addr = none

/-- The invariant holds right after reset, for all parameters, and so in the machine's own state after reset. -/
def Obligations.ResetMeetsTheInvariant : Prop :=
  (∀ p : Params, (Block.reset : Block p).Inv) ∧ State.reset.block.Inv

/-- R212 and the rules it rests on: every step keeps the invariant, from any state that meets it, and the block stays
one with the same parameters (R7, R8, R20). -/
def Obligations.StepKeepsTheInvariant : Prop :=
  ∀ (p : Params) (b : Block p) (t : State), b.Inv → step ⟨p, b⟩ = .next t → ∃ c : Block p, t = ⟨p, c⟩ ∧ c.Inv

/-! ### The host port -/

/-- R39: a register read returns the register's value and changes nothing; a write stores the value, `CFG_CTRL` its
bits 1..0, and changes nothing else; a read-only register ignores it.  Both in every mode.  `RESULT` is read here
while `RVALID = 1`; the other case is `UnspecifiedReadsAnswerSomething`. -/
def Obligations.RegisterAccess : Prop :=
  (∀ (p : Params) (b : Block p) (rest : List HostEvent) (i v : Nat),
    b.pending = .regRead i :: rest → (i, v) ∈ registerValues b → (i = 0x09 → b.rvalid = true) →
    step ⟨p, b⟩ = .next ⟨p, { b with pending := rest, answers := .reg v :: b.answers }⟩) ∧
  (∀ (p : Params) (b c : Block p) (rest : List HostEvent) (i v n : Nat),
    b.pending = .regWrite i v :: rest → (i, n, c) ∈ registerWrites { b with pending := rest } v → v < 2 ^ n →
    step ⟨p, b⟩ = .next ⟨p, c⟩)

/-- R53, R51: `BufWrite` sets its byte and leaves every other address and all other state; `BufRead` of a byte that has
been written returns it and changes nothing.  Both in every mode and before any other events. -/
def Obligations.BufferAccess : Prop :=
  (∀ (p : Params) (b : Block p) (rest : List HostEvent) (addr v : Nat),
    b.pending = .bufWrite addr v :: rest → addr < p.bufsz → v < 256 →
    ∃ c : Block p, step ⟨p, b⟩ = .next ⟨p, c⟩ ∧ c = { b with pending := rest, buf := c.buf } ∧
      c.buf.read addr = some (BitVec.ofNat 8 v) ∧ ∀ a, a ≠ addr → c.buf.read a = b.buf.read a) ∧
  (∀ (p : Params) (b : Block p) (rest : List HostEvent) (addr : Nat) (v : Byte),
    b.pending = .bufRead addr :: rest → addr < p.bufsz → b.buf.read addr = some v →
    step ⟨p, b⟩ = .next ⟨p, { b with pending := rest, answers := .byte v :: b.answers }⟩)

/-- U9 (R32, R53): reading `RESULT` while `RVALID = 0`, or a byte not written since reset, answers some value and
changes nothing of the block.  Which value is free (log entry 3). -/
def Obligations.UnspecifiedReadsAnswerSomething : Prop :=
  (∀ (p : Params) (b : Block p) (rest : List HostEvent), b.pending = .regRead 0x09 :: rest → b.rvalid = false →
    ∃ v, v < 2 ^ p.regw ∧ step ⟨p, b⟩ =
      .next ⟨p, { b with pending := rest, answers := .reg v :: b.answers, freeCount := b.freeCount + 1 }⟩) ∧
  (∀ (p : Params) (b : Block p) (rest : List HostEvent) (addr : Nat), b.pending = .bufRead addr :: rest →
    addr < p.bufsz → b.buf.read addr = none → ∃ v : Byte, step ⟨p, b⟩ =
      .next ⟨p, { b with pending := rest, answers := .byte v :: b.answers, freeCount := b.freeCount + 1 }⟩)

/-- R34, R53, U10: an index above 0x0A and an address of `BUFSZ` or above select nothing, and the machine stops; it
refuses a byte value above 255 (log entry 16) and a register value wider than the register (log entry 7). -/
def Obligations.NothingBeyondTheInterface : Prop :=
  ∀ (p : Params) (b : Block p) (rest : List HostEvent) (n v : Nat),
    (b.pending = .regRead n :: rest ∨ b.pending = .regWrite n v :: rest → 0x0A < n →
      step ⟨p, b⟩ = .fault (.noSuchRegister n)) ∧
    (b.pending = .bufRead n :: rest ∨ b.pending = .bufWrite n v :: rest → p.bufsz ≤ n →
      step ⟨p, b⟩ = .fault (.noSuchBufferAddress n)) ∧
    (b.pending = .bufWrite n v :: rest → n < p.bufsz → 256 ≤ v → step ⟨p, b⟩ = .refused (.byteTooWide v)) ∧
    (∀ (width : Nat) (c : Block p), b.pending = .regWrite n v :: rest → (n, width, c) ∈ registerWrites b v →
      2 ^ width ≤ v → step ⟨p, b⟩ = .refused (.valueTooWide n v))

/-- R39, R53, R196, R228: the four transactions that are not commands are answered in every mode, and touch neither
the mode, the fault record, the result, the remainders, the active parameters nor the tables. -/
def Obligations.HostTransactionsLeaveTheEngines : Prop :=
  ∀ (p : Params) (b : Block p) (e : HostEvent) (rest : List HostEvent),
    b.pending = e :: rest → inInterface p e = true → (∀ cw, e ≠ .command cw) → e ≠ .reset →
    ∃ c : Block p, step ⟨p, b⟩ = .next ⟨p, c⟩ ∧ c.mode = b.mode ∧ c.code = b.code ∧ c.faultCw = b.faultCw ∧
      c.result = b.result ∧ c.rvalid = b.rvalid ∧ c.bseRem = b.bseRem ∧ c.tdeRem = b.tdeRem ∧ c.pW = b.pW ∧ c.pPoly = b.pPoly ∧
      c.pInit = b.pInit ∧ c.pXorout = b.pXorout ∧ c.pRefin = b.pRefin ∧ c.pRefout = b.pRefout ∧
      c.tdeTable = b.tdeTable ∧ c.augTable = b.augTable

/-- R225, R227, R228: when the host keeps its duties with the next event, the event is answered: no run is stuck. -/
def Obligations.EveryDutifulEventIsAnswered : Prop :=
  ∀ (p : Params) (b : Block p), (∀ e rest, b.pending = e :: rest → b.Dutiful e) →
    ∃ c : Block p, step ⟨p, b⟩ = .next ⟨p, c⟩

/-! ### construct and the tables -/

/-- R96: `construct` from `UNCONFIGURED` and from `READY`.  Staged parameters that pass its checks are latched, both
tables are built and both remainders loaded, and `RESULT`, `RVALID`, the staged and operand registers and `BUF` stay.
Else it is `ERR_WIDTH`, tested first, or `ERR_PARAM`, and nothing is latched. -/
def Obligations.ConstructLatchesOrFaults : Prop :=
  encode .construct = 0x01000000 ∧ ∀ (p : Params) (b : Block p), b.mode ≠ .faulted →
    (1 ≤ b.cfgWidth.toNat → b.cfgWidth.toNat ≤ p.regw →
      b.cfgPoly.toNat < 2 ^ b.cfgWidth.toNat → b.cfgInit.toNat < 2 ^ b.cfgWidth.toNat →
      exec .construct ⟨p, b⟩ = .next
        ⟨p, { b with
          pW := b.cfgWidth, pPoly := b.cfgPoly, pInit := b.cfgInit, pXorout := b.cfgXorout,
          pRefin := b.cfgCtrl.getLsbD 0, pRefout := b.cfgCtrl.getLsbD 1,
          tdeTable := buildTable b.cfgWidth.toNat b.cfgPoly (b.cfgCtrl.getLsbD 0),
          augTable := buildTable b.cfgWidth.toNat b.cfgPoly false,
          bseRem := b.cfgInit,
          tdeRem := if b.cfgCtrl.getLsbD 0 then reflect b.cfgInit b.cfgWidth.toNat else b.cfgInit,
          mode := .ready, answers := .ok :: b.answers }⟩) ∧
    (b.cfgWidth.toNat = 0 ∨ p.regw < b.cfgWidth.toNat →
      exec .construct ⟨p, b⟩ = .next ⟨p, faulted b .width 0x01000000⟩) ∧
    (1 ≤ b.cfgWidth.toNat → b.cfgWidth.toNat ≤ p.regw →
      2 ^ b.cfgWidth.toNat ≤ b.cfgPoly.toNat ∨ 2 ^ b.cfgWidth.toNat ≤ b.cfgInit.toNat →
      exec .construct ⟨p, b⟩ = .next ⟨p, faulted b .param 0x01000000⟩)

/-- R130: for every dividend, the entry stored at its (reflected) index is its (reflected) partial remainder. -/
def Obligations.TableHoldsPartialRemainders : Prop :=
  ∀ (W w : Nat) (poly : BitVec W), 8 ≤ W → 1 ≤ w → w ≤ W → poly.toNat < 2 ^ w → ∀ d : Byte,
    entryAt (buildTable w poly false) d.toNat = partialRemainder w poly d ∧
    entryAt (buildTable w poly true) (reflect d 8).toNat = reflect (partialRemainder w poly d) w

/-- R134: the identities (a), (c), (d), (e) of the table, and (b): an entry is the remainder the Bit-Serial Engine is
left with by that byte from zero. -/
def Obligations.TableIdentities : Prop :=
  (∀ (W w : Nat) (poly : BitVec W), 8 ≤ W → 1 ≤ w → w ≤ W → poly.toNat < 2 ^ w →
    (∀ r, entryAt (buildTable w poly r) 0 = 0) ∧
    (∀ d : Byte, entryAt (buildTable w poly true) (reflect d 8).toNat =
      reflect (entryAt (buildTable w poly false) d.toNat) w) ∧
    (∀ r, ∀ a b : Byte, entryAt (buildTable w poly r) (a ^^^ b).toNat =
      entryAt (buildTable w poly r) a.toNat ^^^ entryAt (buildTable w poly r) b.toNat) ∧
    entryAt (buildTable w poly false) 1 &&& sig W w = poly) ∧
  (∀ (p : Params) (b : Block p) (d : Byte), b.mode = .ready → b.pRefin = false → b.argA = 0 →
    ∃ c : Block p, runCommands [.bseResetv, .bsePbyte d] ⟨p, b⟩ = .next ⟨p, c⟩ ∧
      c.bseRem = entryAt (buildTable b.width b.pPoly false) d.toNat)

/-- R136: with a zero polynomial an entry is a pure shift of its index, and zero in a reflected table. -/
def Obligations.ZeroPolynomialTable : Prop :=
  ∀ (W w : Nat), 8 ≤ W → 1 ≤ w → w ≤ W → ∀ d : Byte,
    entryAt (buildTable w (0 : BitVec W) false) d.toNat = d.setWidth W <<< w ∧
    entryAt (buildTable w (0 : BitVec W) true) d.toNat = 0

/-- R133: `tb.read` returns the entry of the selected table, masked, and changes only `RESULT` and `RVALID`. -/
def Obligations.TbReadReturnsTheMaskedEntry : Prop :=
  ∀ (p : Params) (b : Block p) (sel : Bool) (idx : Byte), b.mode = .ready →
    let v := entryAt (if sel then b.augTable else b.tdeTable) idx.toNat &&& sig p.regw b.width
    (encode (.tbRead sel idx)).toNat = 0x30000000 + sel.toNat * 256 + idx.toNat ∧
    exec (.tbRead sel idx) ⟨p, b⟩ = .next ⟨p, { b with result := v, rvalid := true, answers := .val v :: b.answers }⟩

/-! ### Primitives -/

/-- R93: what reflection is, bit by bit: bit `i` goes to bit `bits-1-i`, and nothing at or above `bits` is copied.
R95: reflection twice keeps the low bits, stays below `2^bits`, and is linear. -/
def Obligations.ReflectProperties : Prop :=
  ∀ (W bits : Nat) (x y : BitVec W), 1 ≤ bits → bits ≤ W →
    (∀ i, i < bits → (reflect x bits).getLsbD (bits - 1 - i) = x.getLsbD i) ∧
    (∀ j, (reflect x bits).getLsbD j = (decide (j < bits) && x.getLsbD (bits - 1 - j))) ∧
    reflect (reflect x bits) bits = x &&& sig W bits ∧ (reflect x bits).toNat < 2 ^ bits ∧
    reflect (x ^^^ y) bits = reflect x bits ^^^ reflect y bits

/-- R90, R91: the masks, the full-capacity case included. -/
def Obligations.MaskValues : Prop :=
  ∀ W w : Nat, 1 ≤ w → w ≤ W →
    (highBitMask W w).toNat = 2 ^ (w - 1) ∧ (significantBitsMask W w).toNat = 2 ^ w - 1

/-! ### The Bit-Serial Engine -/

/-- R111. -/
def Obligations.BsePbitDivides : Prop :=
  ∀ (p : Params) (b : Block p) (bit : Bool), b.mode = .ready →
    (encode (.bsePbit bit)).toNat = 0x10000000 + bit.toNat ∧
    exec (.bsePbit bit) ⟨p, b⟩ = .next
      ⟨p, { b with bseRem := divisionStep b.width b.pPoly b.bseRem bit, answers := .ok :: b.answers }⟩

/-- R112: the low `cnt` bits of `val`, from bit `cnt-1` down to bit 0; more than 8 is fault `ERR_BITCOUNT`. -/
def Obligations.BsePbitsFeedsTheLowBits : Prop :=
  ∀ (p : Params) (b : Block p) (val : Byte) (cnt : BitVec 4), b.mode = .ready →
    (encode (.bsePbits val cnt)).toNat = 0x11000000 + cnt.toNat * 256 + val.toNat ∧
    (cnt.toNat ≤ 8 → exec (.bsePbits val cnt) ⟨p, b⟩ = .next
      ⟨p, { b with
        bseRem := ((List.range cnt.toNat).reverse.map val.getLsbD).foldl (divisionStep b.width b.pPoly) b.bseRem,
        answers := .ok :: b.answers }⟩) ∧
    (8 < cnt.toNat → exec (.bsePbits val cnt) ⟨p, b⟩ = .next ⟨p, faulted b .bitCount (encode (.bsePbits val cnt))⟩)

/-- R113, R55: the eight bits of the byte, most significant first, or least significant first when `P_REFIN = 1`. -/
def Obligations.BsePbyteDividesInBitOrder : Prop :=
  ∀ (p : Params) (b : Block p) (byte : Byte), b.mode = .ready →
    (encode (.bsePbyte byte)).toNat = 0x12000000 + byte.toNat ∧
    exec (.bsePbyte byte) ⟨p, b⟩ = .next
      ⟨p, { b with bseRem := divideInOrder b.width b.pPoly b.pRefin b.bseRem byte, answers := .ok :: b.answers }⟩

/-- R114: the bytes of the range in ascending address order; a range that leaves the buffer is fault `ERR_RANGE`. -/
def Obligations.BsePbytesFoldsTheRange : Prop :=
  encode .bsePbytes = 0x13000000 ∧
  (∀ (p : Params) (b : Block p) (bytes : List Byte), b.mode = .ready → b.RangeHolds bytes →
    exec .bsePbytes ⟨p, b⟩ = .next
      ⟨p, { b with
        bseRem := bytes.foldl (divideInOrder b.width b.pPoly b.pRefin) b.bseRem, answers := .ok :: b.answers }⟩) ∧
  (∀ (p : Params) (b : Block p), b.mode = .ready → p.bufsz < b.argOff.toNat + b.argSize.toNat →
    exec .bsePbytes ⟨p, b⟩ = .next ⟨p, faulted b .range 0x13000000⟩)

/-- R115, R116: `bse.reset` and `bse.resetv` load the natural value, unreflected. -/
def Obligations.BseResetsLoadNaturalValues : Prop :=
  encode .bseReset = 0x14000000 ∧ encode .bseResetv = 0x15000000 ∧ ∀ (p : Params) (b : Block p), b.mode = .ready →
    exec .bseReset ⟨p, b⟩ = .next ⟨p, { b with bseRem := b.pInit, answers := .ok :: b.answers }⟩ ∧
    exec .bseResetv ⟨p, b⟩ = .next ⟨p, { b with bseRem := b.argA, answers := .ok :: b.answers }⟩

/-- R117: the masked remainder, no reflection, no final XOR. -/
def Obligations.BseInterimReturnsTheRemainder : Prop :=
  encode .bseInterim = 0x16000000 ∧ ∀ (p : Params) (b : Block p), b.mode = .ready →
    let v := b.bseRem &&& sig p.regw b.width
    exec .bseInterim ⟨p, b⟩ = .next ⟨p, { b with result := v, rvalid := true, answers := .val v :: b.answers }⟩

/-- R118: output reflection by `P_REFOUT` alone, final XOR, mask. -/
def Obligations.BseChecksumFinalizes : Prop :=
  encode .bseChecksum = 0x17000000 ∧ ∀ (p : Params) (b : Block p), b.mode = .ready →
    let v := ((if b.pRefout then reflect b.bseRem b.width else b.bseRem) ^^^ b.pXorout) &&& sig p.regw b.width
    exec .bseChecksum ⟨p, b⟩ = .next ⟨p, { b with result := v, rvalid := true, answers := .val v :: b.answers }⟩

/-- R114, R144: a range command does to the block what the sequence of its byte commands does. -/
def Obligations.RangeCommandIsASequenceOfBytes : Prop :=
  ∀ (p : Params) (b : Block p) (bytes : List Byte), b.mode = .ready → b.RangeHolds bytes →
    (∃ c d : Block p, exec .bsePbytes ⟨p, b⟩ = .next ⟨p, c⟩ ∧
      runCommands (bytes.map .bsePbyte) ⟨p, b⟩ = .next ⟨p, d⟩ ∧ { c with answers := [] } = { d with answers := [] }) ∧
    (∃ c d : Block p, exec .tdePbytes ⟨p, b⟩ = .next ⟨p, c⟩ ∧
      runCommands (bytes.map .tdePbyte) ⟨p, b⟩ = .next ⟨p, d⟩ ∧ { c with answers := [] } = { d with answers := [] })

/-! ### The Table-Driven Engine -/

/-- R141 to R143: the index, the shift and the one table read. -/
def Obligations.TdePbyteLooksUpOnce : Prop :=
  ∀ (p : Params) (b : Block p) (byte : Byte), b.mode = .ready →
    (encode (.tdePbyte byte)).toNat = 0x22000000 + byte.toNat ∧
    exec (.tdePbyte byte) ⟨p, b⟩ = .next
      ⟨p, { b with tdeRem := tableStep b.width b.tdeTable b.pRefin b.tdeRem byte, answers := .ok :: b.answers }⟩

/-- R144. -/
def Obligations.TdePbytesFoldsTheRange : Prop :=
  encode .tdePbytes = 0x23000000 ∧
  (∀ (p : Params) (b : Block p) (bytes : List Byte), b.mode = .ready → b.RangeHolds bytes →
    exec .tdePbytes ⟨p, b⟩ = .next
      ⟨p, { b with
        tdeRem := bytes.foldl (tableStep b.width b.tdeTable b.pRefin) b.tdeRem, answers := .ok :: b.answers }⟩) ∧
  (∀ (p : Params) (b : Block p), b.mode = .ready → p.bufsz < b.argOff.toNat + b.argSize.toNat →
    exec .tdePbytes ⟨p, b⟩ = .next ⟨p, faulted b .range 0x23000000⟩)

/-- R145, R146: `tde.reset` and `tde.resetv` reflect the natural value when `P_REFIN = 1`. -/
def Obligations.TdeResetsReflectNaturalValues : Prop :=
  encode .tdeReset = 0x24000000 ∧ encode .tdeResetv = 0x25000000 ∧ ∀ (p : Params) (b : Block p), b.mode = .ready →
    exec .tdeReset ⟨p, b⟩ = .next
      ⟨p, { b with tdeRem := if b.pRefin then reflect b.pInit b.width else b.pInit, answers := .ok :: b.answers }⟩ ∧
    exec .tdeResetv ⟨p, b⟩ = .next
      ⟨p, { b with tdeRem := if b.pRefin then reflect b.argA b.width else b.argA, answers := .ok :: b.answers }⟩

/-- R147: the remainder with the input reflection undone, masked. -/
def Obligations.TdeInterimReturnsTheNaturalRemainder : Prop :=
  encode .tdeInterim = 0x26000000 ∧ ∀ (p : Params) (b : Block p), b.mode = .ready →
    let v := (if b.pRefin then reflect b.tdeRem b.width else b.tdeRem) &&& sig p.regw b.width
    exec .tdeInterim ⟨p, b⟩ = .next ⟨p, { b with result := v, rvalid := true, answers := .val v :: b.answers }⟩

/-- R148: the four flag combinations, final XOR, mask. -/
def Obligations.TdeChecksumFinalizes : Prop :=
  encode .tdeChecksum = 0x27000000 ∧ ∀ (p : Params) (b : Block p), b.mode = .ready →
    let r :=
      match b.pRefin, b.pRefout with
      | false, false => b.tdeRem
      | false, true => reflect b.tdeRem b.width
      | true, false => reflect b.tdeRem b.width
      | true, true => b.tdeRem
    let v := (r ^^^ b.pXorout) &&& sig p.regw b.width
    exec .tdeChecksum ⟨p, b⟩ = .next ⟨p, { b with result := v, rvalid := true, answers := .val v :: b.answers }⟩

/-- R150, the invariant behind it: the same byte keeps the engines in agreement. -/
def Obligations.EnginesAgreeAfterEachByte : Prop :=
  ∀ (p : Params) (b : Block p) (v : Byte), b.mode = .ready → b.ReadyInv → b.EnginesAgree →
    ∃ c : Block p, runCommands [.bsePbyte v, .tdePbyte v] ⟨p, b⟩ = .next ⟨p, c⟩ ∧ c.mode = .ready ∧ c.ReadyInv ∧
      c.EnginesAgree

/-- R150: the engines agree after `construct`, after `bse.reset` and `tde.reset`, and after `bse.resetv` and
`tde.resetv` with the same `ARG_A`. -/
def Obligations.EnginesAgreeFromEachStart : Prop :=
  (∀ (p : Params) (b c : Block p), b.mode ≠ .faulted → exec .construct ⟨p, b⟩ = .next ⟨p, c⟩ → c.mode = .ready →
    c.ReadyInv ∧ c.EnginesAgree) ∧
  (∀ (p : Params) (b : Block p), b.mode = .ready → b.ReadyInv →
    (∃ c : Block p, runCommands [.bseReset, .tdeReset] ⟨p, b⟩ = .next ⟨p, c⟩ ∧ c.mode = .ready ∧ c.ReadyInv ∧
      c.EnginesAgree) ∧
    (∃ c : Block p, runCommands [.bseResetv, .tdeResetv] ⟨p, b⟩ = .next ⟨p, c⟩ ∧ c.mode = .ready ∧ c.ReadyInv ∧
      c.EnginesAgree))

/-- R150: where the engines agree, their interim and checksum commands do exactly the same. -/
def Obligations.AgreeingEnginesRespondAlike : Prop :=
  ∀ (p : Params) (b : Block p), b.mode = .ready → b.ReadyInv → b.EnginesAgree →
    exec .tdeInterim ⟨p, b⟩ = exec .bseInterim ⟨p, b⟩ ∧ exec .tdeChecksum ⟨p, b⟩ = exec .bseChecksum ⟨p, b⟩

/-- R150, "the defining correctness property of the whole design": after one `construct`, both engines fed the same
message give the same interim and the same checksum, for every legal parameter set and every message. -/
def Obligations.EngineEquivalence : Prop :=
  ∀ (p : Params) (b : Block p) (msg : List Byte), b.mode ≠ .faulted → 1 ≤ b.cfgWidth.toNat →
    b.cfgWidth.toNat ≤ p.regw → b.cfgPoly.toNat < 2 ^ b.cfgWidth.toNat → b.cfgInit.toNat < 2 ^ b.cfgWidth.toNat →
    ∃ c : Block p, runCommands (.construct :: (msg.map .bsePbyte ++ msg.map .tdePbyte)) ⟨p, b⟩ = .next ⟨p, c⟩ ∧
      c.mode = .ready ∧ exec .tdeInterim ⟨p, c⟩ = exec .bseInterim ⟨p, c⟩ ∧
      exec .tdeChecksum ⟨p, c⟩ = exec .bseChecksum ⟨p, c⟩

/-- R152: the interim value given back by `tde.resetv` restores the remainder, up to surplus bits. -/
def Obligations.SuspendAndResume : Prop :=
  ∀ (p : Params) (b : Block p), b.mode = .ready → b.ReadyInv →
    ∃ c d : Block p, exec .tdeInterim ⟨p, b⟩ = .next ⟨p, c⟩ ∧
      exec .tdeResetv ⟨p, { c with argA := c.result }⟩ = .next ⟨p, d⟩ ∧
      d.tdeRem = if b.pRefin then b.tdeRem else b.tdeRem &&& sig p.regw b.width

/-! ### The Augmented Engine -/

/-- R161, R162: `aug.calc` on a range that holds these bytes; its two faults, in their order. -/
def Obligations.AugCalcComputes : Prop :=
  encode .augCalc = 0x40000000 ∧
  (∀ (p : Params) (b : Block p) (bytes : List Byte), b.mode = .ready → b.width % 8 = 0 → b.RangeHolds bytes →
    let v := bytes.foldl (fun rem v => augStep b.width b.augTable rem v &&& sig p.regw b.width) b.argA &&&
      sig p.regw b.width
    exec .augCalc ⟨p, b⟩ = .next ⟨p, { b with result := v, rvalid := true, answers := .val v :: b.answers }⟩) ∧
  (∀ (p : Params) (b : Block p), b.mode = .ready → b.width % 8 ≠ 0 →
    exec .augCalc ⟨p, b⟩ = .next ⟨p, faulted b .augWidth 0x40000000⟩) ∧
  (∀ (p : Params) (b : Block p), b.mode = .ready → b.width % 8 = 0 → p.bufsz < b.argOff.toNat + b.argSize.toNat →
    exec .augCalc ⟨p, b⟩ = .next ⟨p, faulted b .range 0x40000000⟩)

/-- R166: the response is the same when the mask is applied only at the end. -/
def Obligations.MaskingCadenceIsInvisible : Prop :=
  ∀ (p : Params) (b : Block p) (bytes : List Byte), b.mode = .ready → b.ReadyInv → b.width % 8 = 0 →
    b.RangeHolds bytes → ∃ c : Block p, exec .augCalc ⟨p, b⟩ = .next ⟨p, c⟩ ∧
      c.result = bytes.foldl (augStep b.width b.augTable) b.argA &&& sig p.regw b.width

/-- R164: two contiguous segments, the first response carried into `ARG_A`, give the response of the whole. -/
def Obligations.AugSegmentsCompose : Prop :=
  ∀ (p : Params) (b : Block p) (first second : List Byte), b.mode = .ready → b.ReadyInv → b.width % 8 = 0 →
    b.RangeHolds (first ++ second) →
    ∃ w c d : Block p, exec .augCalc ⟨p, b⟩ = .next ⟨p, w⟩ ∧
      exec .augCalc ⟨p, { b with argSize := BitVec.ofNat 32 first.length }⟩ = .next ⟨p, c⟩ ∧
      exec .augCalc
        ⟨p, { c with
          argOff := BitVec.ofNat 32 (b.argOff.toNat + first.length)
          argSize := BitVec.ofNat 32 second.length
          argA := c.result }⟩ = .next ⟨p, d⟩ ∧
      d.result = w.result

/-- R163: the key property.  The response over a message with `P_W/8` trailing zero bytes, written big-endian over
them, makes the second pass end in zero. -/
def Obligations.EmbeddedChecksumVerifies : Prop :=
  ∀ (p : Params) (b : Block p) (msg : List Byte), b.mode = .ready → b.ReadyInv → b.width % 8 = 0 → b.argA = 0 →
    b.RangeHolds (msg ++ List.replicate (b.width / 8) 0) →
    ∃ c d : Block p, exec .augCalc ⟨p, b⟩ = .next ⟨p, c⟩ ∧
      exec .augCalc
        ⟨p, { c with buf := writtenBE c.buf (b.argOff.toNat + msg.length) (b.width / 8) c.result.toNat }⟩ =
          .next ⟨p, d⟩ ∧
      d.answers = .val 0 :: c.answers

/-- R165: with a nonzero polynomial, flipping one bit of a self-verifying buffer makes the response nonzero. -/
def Obligations.SingleBitFlipIsDetected : Prop :=
  ∀ (p : Params) (b c : Block p) (bytes : List Byte) (k : Nat) (hk : k < bytes.length) (j : Nat),
    b.mode = .ready → b.ReadyInv → b.width % 8 = 0 → b.pPoly ≠ 0 → b.argA = 0 → b.RangeHolds bytes →
    exec .augCalc ⟨p, b⟩ = .next ⟨p, c⟩ → c.result = 0 → j < 8 →
    ∃ d : Block p, exec .augCalc
        ⟨p, { b with buf := b.buf.write (b.argOff.toNat + k) (bytes[k] ^^^ BitVec.ofNat 8 (2 ^ j)) }⟩ = .next ⟨p, d⟩ ∧
      d.result ≠ 0

/-- R167: the augmented response over a message and `P_W/8` zero bytes is the Bit-Serial Engine's interim of the
message from a zero remainder, unreflected. -/
def Obligations.AugmentedMatchesBitSerial : Prop :=
  ∀ (p : Params) (b : Block p) (msg : List Byte), b.mode = .ready → b.ReadyInv → b.width % 8 = 0 → b.argA = 0 →
    b.pRefin = false → b.RangeHolds (msg ++ List.replicate (b.width / 8) 0) →
    ∃ c d : Block p, exec .augCalc ⟨p, b⟩ = .next ⟨p, c⟩ ∧
      runCommands (.bseResetv :: (msg.map .bsePbyte ++ [.bseInterim])) ⟨p, b⟩ = .next ⟨p, d⟩ ∧ c.result = d.result

/-- R160: `P_INIT`, `P_XOROUT`, the flags, both remainders and the reflected table have no effect on `aug.calc`. -/
def Obligations.AugCalcReadsOnlyItsOwn : Prop :=
  ∀ (p : Params) (b c : Block p) (init xorout bse tde : Word p) (refin refout : Bool) (tab : Table p.regw),
    exec .augCalc ⟨p, b⟩ = .next ⟨p, c⟩ →
    exec .augCalc
      ⟨p, { b with
        pInit := init, pXorout := xorout, pRefin := refin, pRefout := refout, bseRem := bse, tdeRem := tde,
        tdeTable := tab }⟩ = .next
      ⟨p, { c with
        pInit := init, pXorout := xorout, pRefin := refin, pRefout := refout, bseRem := bse, tdeRem := tde,
        tdeTable := tab }⟩

/-! ### The buffer commands, and rules over all commands -/

/-- R221, R52: a range command whose range passes the bounds check but holds an unwritten byte is given no meaning:
the machine refuses, naming the first such byte. -/
def Obligations.UnwrittenByteIsRefused : Prop :=
  ∀ (p : Params) (b : Block p) (addr : Nat), b.mode = .ready → b.argOff.toNat + b.argSize.toNat ≤ p.bufsz →
    b.argOff.toNat ≤ addr → addr < b.argOff.toNat + b.argSize.toNat → b.buf.read addr = none →
    (∀ a, b.argOff.toNat ≤ a → a < addr → b.buf.read a ≠ none) →
    exec .bsePbytes ⟨p, b⟩ = .refused (.unwrittenByte addr) ∧
    exec .tdePbytes ⟨p, b⟩ = .refused (.unwrittenByte addr) ∧
    (b.width % 8 = 0 → exec .augCalc ⟨p, b⟩ = .refused (.unwrittenByte addr))

/-- The frame of every command (R20, R22, R23, R30, R31, R51, R98): what it leaves when it is answered, the parameters
of the block first. -/
def Obligations.CommandFrame : Prop :=
  ∀ (i : Instr) (p : Params) (b : Block p) (t : State), exec i ⟨p, b⟩ = .next t → ∃ c : Block p, t = ⟨p, c⟩ ∧
    (c.cfgWidth = b.cfgWidth ∧ c.cfgPoly = b.cfgPoly ∧ c.cfgInit = b.cfgInit ∧ c.cfgXorout = b.cfgXorout ∧
      c.cfgCtrl = b.cfgCtrl ∧ c.argA = b.argA ∧ c.argOff = b.argOff ∧ c.argSize = b.argSize ∧
      c.pending = b.pending ∧ c.freeCount = b.freeCount) ∧
    (∀ addr, c.buf.read addr = b.buf.read addr) ∧
    (i ≠ .construct → c.pW = b.pW ∧ c.pPoly = b.pPoly ∧ c.pInit = b.pInit ∧ c.pXorout = b.pXorout ∧
      c.pRefin = b.pRefin ∧ c.pRefout = b.pRefout ∧ c.tdeTable = b.tdeTable ∧ c.augTable = b.augTable) ∧
    (writesBseRem i = false → c.bseRem = b.bseRem) ∧ (writesTdeRem i = false → c.tdeRem = b.tdeRem) ∧
    (returnsVal i = false → c.result = b.result ∧ c.rvalid = b.rvalid) ∧
    (c.mode ≠ .faulted → c.code = b.code ∧ c.faultCw = b.faultCw)

/-- R32: a value, when it is written to `RESULT`, has no bit at or above `P_W`. -/
def Obligations.ResponsesFitTheWidth : Prop :=
  ∀ (i : Instr) (p : Params) (b c : Block p) (v : Word p), b.width ≤ p.regw → exec i ⟨p, b⟩ = .next ⟨p, c⟩ →
    c.answers = .val v :: b.answers →
    v.toNat < 2 ^ b.width ∧ c.result = v

/-- R213, R29: staged parameters are inert: no command but `construct` does anything different for them. -/
def Obligations.StagedParametersAreInert : Prop :=
  ∀ (i : Instr) (p : Params) (b c : Block p) (width : Word32) (poly init xorout : Word p) (ctrl : BitVec 2),
    i ≠ .construct → exec i ⟨p, b⟩ = .next ⟨p, c⟩ →
    exec i ⟨p, { b with
        cfgWidth := width, cfgPoly := poly, cfgInit := init, cfgXorout := xorout, cfgCtrl := ctrl }⟩ =
      .next ⟨p, { c with cfgWidth := width, cfgPoly := poly, cfgInit := init, cfgXorout := xorout, cfgCtrl := ctrl }⟩

/-- R36 (a) for the datapath functions, which `exec` uses at `REGW`: from any start value, surplus bits included, after
any feeds, the responses are the same for every register capacity that holds the width. -/
def Obligations.ResponsesDoNotDependOnCapacity : Prop :=
  ∀ V W w : Nat, 8 ≤ V → 8 ≤ W → 1 ≤ w → w ≤ V → w ≤ W → ∀ poly : Nat, poly < 2 ^ w →
    (∀ (start xorout : Nat) (refin refout : Bool) (feeds : List Feed) (msg : List Byte),
      streamResponses V w poly start xorout refin refout feeds msg =
        streamResponses W w poly start xorout refin refout feeds msg) ∧
    (∀ (r : Bool) (d : Byte), (entryAt (buildTable w (BitVec.ofNat V poly) r) d.toNat &&& sig V w).toNat =
      (entryAt (buildTable w (BitVec.ofNat W poly) r) d.toNat &&& sig W w).toNat) ∧
    (w % 8 = 0 → ∀ (r0 : Nat) (msg : List Byte), augResponse V w poly r0 msg = augResponse W w poly r0 msg)

/-- R84: `crc.setup` stages the five parameters and constructs: six events, then `READY` with those parameters. -/
def Obligations.CrcSetupConfigures : Prop :=
  ∀ (p : Params) (b : Block p) (width poly init xorout refin refout : Nat), b.mode ≠ .faulted → b.pending = [] →
    1 ≤ width → width ≤ p.regw → width < 2 ^ 32 → poly < 2 ^ width → init < 2 ^ width → xorout < 2 ^ p.regw →
      refin < 2 → refout < 2 →
    ∃ c : Block p,
      Sys2Proof.core.run 6 ⟨p, b.withProgram (expand (.crcSetup width poly init xorout refin refout))⟩ =
        .next ⟨p, c⟩ ∧
      c.pending = [] ∧ c.mode = .ready ∧ c.answers = .ok :: b.answers ∧ c.pW.toNat = width ∧ c.pPoly.toNat = poly ∧
      c.pInit.toNat = init ∧ c.pXorout.toNat = xorout ∧ c.pRefin = (refin == 1) ∧ c.pRefout = (refout == 1)

/-- R36: no response depends on surplus bits or on the register capacity.  Blocks right after reset are alike, and every
event that both have a move for leaves alike blocks alike, the answers included, whatever the events before it were.
Kept out: a staged width that one of them can hold and the other cannot, when `construct` meets it, and the two reads
that answer any value (U9): of `RESULT` while `RVALID = 0`, and of a byte not written since reset.  It rests on no
value the model chose: what the spec leaves unspecified is neither compared nor read (log entries 3 and 6).  That the
host's events and the answers stand in the block is the model's own (log entries 4 and 5). -/
def Obligations.AlikeBlocksStayAlike : Prop :=
  (∀ p q : Params, p.bufsz = q.bufsz → Alike (Block.reset : Block p) (Block.reset : Block q)) ∧
  (∀ (p q : Params) (b b' : Block p) (c : Block q), (b.mode = .ready → b.ReadyInv ∧ c.ReadyInv) → Alike b c →
    (∀ e rest, b.pending = e :: rest → inInterface p e = true ∧ inInterface q e = true ∧
      (e = .regRead 0x09 → b.rvalid = true) ∧ (∀ addr, e = .bufRead addr → b.buf.read addr ≠ none) ∧
      (∀ cw, e = .command cw → decode cw = .ok .construct →
        (b.cfgWidth.toNat ≤ p.regw ↔ b.cfgWidth.toNat ≤ q.regw))) →
    step ⟨p, b⟩ = .next ⟨p, b'⟩ → ∃ c' : Block q, step ⟨q, c⟩ = .next ⟨q, c'⟩ ∧ Alike b' c')
end

