-- ==== Sys2Proof/Laws/Primitives.lean ====
section
/-! SUPPORT. The datapath functions bit by bit, for every register capacity. -/

namespace Sys2Proof.Machine

variable {W : Nat}

/-- The high mask has exactly one bit, at `w-1` (R90). -/
@[simp] theorem getLsbD_highBitMask (w i : Nat) :
    (highBitMask W w).getLsbD i = (decide (i < W) && decide (i = w - 1)) := by
  simp only [highBitMask, BitVec.getLsbD_shiftLeft, BitVec.getLsbD_one]
  by_cases h : i < W
  · by_cases h' : i = w - 1
    · subst h'; simp [h]; omega
    · simp [h, h']; omega
  · simp [h]

/-- The same, for a bit known to be in the register. -/
@[simp] theorem getElem_highBitMask (w i : Nat) (h : i < W) : (highBitMask W w)[i] = decide (i = w - 1) := by
  rw [← BitVec.getLsbD_eq_getElem, getLsbD_highBitMask]
  simp [h]

/-- The significant mask has exactly the low `w` bits (R91), the full-capacity case included (R92). -/
@[simp] theorem getLsbD_significantBitsMask (w i : Nat) :
    (significantBitsMask W w).getLsbD i = (decide (i < W) && decide (i < w)) := by
  simp only [significantBitsMask, BitVec.getLsbD_not, BitVec.getLsbD_shiftLeft]
  by_cases h : i < W <;> by_cases h' : i < w <;> simp [h, h']
  all_goals omega

/-- The same, for a bit known to be in the register. -/
@[simp] theorem getElem_significantBitsMask (w i : Nat) (h : i < W) :
    (significantBitsMask W w)[i] = decide (i < w) := by
  rw [← BitVec.getLsbD_eq_getElem, getLsbD_significantBitsMask]
  simp [h]

/-- Bit `i` of a reflection (R93). -/
@[simp] theorem getLsbD_reflect (x : BitVec W) (bits i : Nat) (h : bits ≤ W) :
    (reflect x bits).getLsbD i = (decide (i < bits) && x.getLsbD (bits - 1 - i)) := by
  induction bits generalizing i with
  | zero => simp [reflect]
  | succ bits ih =>
    simp only [reflect, BitVec.getLsbD_or, BitVec.getLsbD_shiftLeft, ih _ (Nat.le_of_succ_le h)]
    cases i with
    | zero =>
      cases hx : x.getLsbD bits <;> simp [hx]
      all_goals omega
    | succ i =>
      have e : bits - 1 - i = bits + 1 - 1 - (i + 1) := by omega
      by_cases hi : i < bits
      · cases hx : x.getLsbD bits <;> simp [hi, BitVec.getLsbD_one, e] <;> omega
      · cases hx : x.getLsbD bits <;> simp [hi, BitVec.getLsbD_one]

/-- The same, for a bit known to be in the register. -/
@[simp] theorem getElem_reflect (x : BitVec W) (bits i : Nat) (h : bits ≤ W) (hi : i < W) :
    (reflect x bits)[i] = (decide (i < bits) && x.getLsbD (bits - 1 - i)) := by
  rw [← BitVec.getLsbD_eq_getElem, getLsbD_reflect x bits i h]

/-- What `buildTable` holds at an index (R130). -/
@[simp] theorem readEntry_buildTable (w : Nat) (poly : BitVec W) (r : Bool) (i : Byte) :
    readEntry (buildTable w poly r) i = tableEntry w poly r i := by
  simp [readEntry, buildTable]

/-- Testing a value against the high mask is reading its bit `w-1` (R111's division flag). -/
theorem and_highBitMask_ne_zero (w : Nat) (x : BitVec W) (hw : 1 ≤ w) (hW : w ≤ W) :
    (x &&& highBitMask W w != 0) = x.getLsbD (w - 1) := by
  have top : ∀ i, (x &&& highBitMask W w).getLsbD i = (decide (i = w - 1) && x.getLsbD (w - 1)) := by
    intro i
    simp only [BitVec.getLsbD_and, getLsbD_highBitMask]
    by_cases h : i = w - 1
    · subst h; have : w - 1 < W := by omega
      simp [this]
    · simp [h]
  cases hx : x.getLsbD (w - 1) with
  | true =>
    simp only [bne_iff_ne, ne_eq]
    intro h0
    have := top (w - 1)
    simp [h0, hx] at this
  | false =>
    have : x &&& highBitMask W w = 0 := by
      apply BitVec.eq_of_getLsbD_eq
      intro i _
      simp [top i, hx]
    simp [this]

/-- One bit step, bit by bit (R111): every bit moves up one place, and the polynomial comes in when the top bit and
the input bit differ. -/
theorem getLsbD_bitStep (w : Nat) (poly rem : BitVec W) (bit : Bool) (i : Nat) (hw : 1 ≤ w) (hW : w ≤ W) :
    (bitStep w poly rem bit).getLsbD i =
      (((decide (1 ≤ i) && decide (i < W)) && (rem.getLsbD (i - 1) ^^ (bit && decide (i = w)))) ^^
        ((rem.getLsbD (w - 1) ^^ bit) && poly.getLsbD i)) := by
  have top : (if bit then rem ^^^ highBitMask W w else rem).getLsbD (w - 1) = (rem.getLsbD (w - 1) ^^ bit) := by
    have : w - 1 < W := by omega
    cases bit <;> simp [this]
  have shifted : ((if bit then rem ^^^ highBitMask W w else rem) <<< 1).getLsbD i =
      ((decide (1 ≤ i) && decide (i < W)) && (rem.getLsbD (i - 1) ^^ (bit && decide (i = w)))) := by
    rw [BitVec.getLsbD_shiftLeft]
    by_cases h1 : 1 ≤ i <;> by_cases h2 : i < W
    · have e : (i - 1 = w - 1) ↔ i = w := by omega
      have h3 : i - 1 < W := by omega
      have h4 : ¬ i = 0 := by omega
      cases bit <;> simp [h1, h2, h3, h4, e]
    all_goals simp [h1, h2]
    omega
  simp only [bitStep, and_highBitMask_ne_zero w _ hw hW, top]
  cases hc : (rem.getLsbD (w - 1) ^^ bit) <;> simp [shifted]

/-- Reflection by a flag that is off changes nothing, surplus bits included (R94). -/
@[simp] theorem reflectHelper_false (w : Nat) (x : BitVec W) : reflectHelper w x false = x := rfl

/-- Reflection by a flag that is on (R94). -/
@[simp] theorem reflectHelper_true (w : Nat) (x : BitVec W) : reflectHelper w x true = reflect x w := rfl

end Sys2Proof.Machine
end

