-- ==== Sys2Proof/Laws/State.lean ====
section
/-! SUPPORT. What each named update of the state does to each field: one lemma per field per update, so that no
later proof unfolds a record update. -/

namespace Sys2Proof.Machine

/-! The host receives an answer. -/

section answer

variable {p : Params} (b : Block p) (a : Answer p)

@[simp] theorem Block.answer_bseRem : (b.answer a).bseRem = b.bseRem := rfl
@[simp] theorem Block.answer_tdeRem : (b.answer a).tdeRem = b.tdeRem := rfl
@[simp] theorem Block.answer_cfgWidth : (b.answer a).cfgWidth = b.cfgWidth := rfl
@[simp] theorem Block.answer_cfgPoly : (b.answer a).cfgPoly = b.cfgPoly := rfl
@[simp] theorem Block.answer_cfgInit : (b.answer a).cfgInit = b.cfgInit := rfl
@[simp] theorem Block.answer_cfgXorout : (b.answer a).cfgXorout = b.cfgXorout := rfl
@[simp] theorem Block.answer_cfgCtrl : (b.answer a).cfgCtrl = b.cfgCtrl := rfl
@[simp] theorem Block.answer_pW : (b.answer a).pW = b.pW := rfl
@[simp] theorem Block.answer_pPoly : (b.answer a).pPoly = b.pPoly := rfl
@[simp] theorem Block.answer_pInit : (b.answer a).pInit = b.pInit := rfl
@[simp] theorem Block.answer_pXorout : (b.answer a).pXorout = b.pXorout := rfl
@[simp] theorem Block.answer_pRefin : (b.answer a).pRefin = b.pRefin := rfl
@[simp] theorem Block.answer_pRefout : (b.answer a).pRefout = b.pRefout := rfl
@[simp] theorem Block.answer_argA : (b.answer a).argA = b.argA := rfl
@[simp] theorem Block.answer_argOff : (b.answer a).argOff = b.argOff := rfl
@[simp] theorem Block.answer_argSize : (b.answer a).argSize = b.argSize := rfl
@[simp] theorem Block.answer_mode : (b.answer a).mode = b.mode := rfl
@[simp] theorem Block.answer_rvalid : (b.answer a).rvalid = b.rvalid := rfl
@[simp] theorem Block.answer_code : (b.answer a).code = b.code := rfl
@[simp] theorem Block.answer_result : (b.answer a).result = b.result := rfl
@[simp] theorem Block.answer_faultCw : (b.answer a).faultCw = b.faultCw := rfl
@[simp] theorem Block.answer_tdeTable : (b.answer a).tdeTable = b.tdeTable := rfl
@[simp] theorem Block.answer_augTable : (b.answer a).augTable = b.augTable := rfl
@[simp] theorem Block.answer_buf : (b.answer a).buf = b.buf := rfl
@[simp] theorem Block.answer_pending : (b.answer a).pending = b.pending := rfl
@[simp] theorem Block.answer_answers : (b.answer a).answers = a :: b.answers := rfl
@[simp] theorem Block.answer_freeCount : (b.answer a).freeCount = b.freeCount := rfl
@[simp] theorem Block.answer_width : (b.answer a).width = b.width := rfl
@[simp] theorem Block.answer_sig : (b.answer a).sig = b.sig := rfl

end answer

/-! `BSE_REM <- v`. -/

section withBseRem

variable {p : Params} (b : Block p) (v : Word p)

@[simp] theorem Block.withBseRem_bseRem : (b.withBseRem v).bseRem = v := rfl
@[simp] theorem Block.withBseRem_tdeRem : (b.withBseRem v).tdeRem = b.tdeRem := rfl
@[simp] theorem Block.withBseRem_cfgWidth : (b.withBseRem v).cfgWidth = b.cfgWidth := rfl
@[simp] theorem Block.withBseRem_cfgPoly : (b.withBseRem v).cfgPoly = b.cfgPoly := rfl
@[simp] theorem Block.withBseRem_cfgInit : (b.withBseRem v).cfgInit = b.cfgInit := rfl
@[simp] theorem Block.withBseRem_cfgXorout : (b.withBseRem v).cfgXorout = b.cfgXorout := rfl
@[simp] theorem Block.withBseRem_cfgCtrl : (b.withBseRem v).cfgCtrl = b.cfgCtrl := rfl
@[simp] theorem Block.withBseRem_pW : (b.withBseRem v).pW = b.pW := rfl
@[simp] theorem Block.withBseRem_pPoly : (b.withBseRem v).pPoly = b.pPoly := rfl
@[simp] theorem Block.withBseRem_pInit : (b.withBseRem v).pInit = b.pInit := rfl
@[simp] theorem Block.withBseRem_pXorout : (b.withBseRem v).pXorout = b.pXorout := rfl
@[simp] theorem Block.withBseRem_pRefin : (b.withBseRem v).pRefin = b.pRefin := rfl
@[simp] theorem Block.withBseRem_pRefout : (b.withBseRem v).pRefout = b.pRefout := rfl
@[simp] theorem Block.withBseRem_argA : (b.withBseRem v).argA = b.argA := rfl
@[simp] theorem Block.withBseRem_argOff : (b.withBseRem v).argOff = b.argOff := rfl
@[simp] theorem Block.withBseRem_argSize : (b.withBseRem v).argSize = b.argSize := rfl
@[simp] theorem Block.withBseRem_mode : (b.withBseRem v).mode = b.mode := rfl
@[simp] theorem Block.withBseRem_rvalid : (b.withBseRem v).rvalid = b.rvalid := rfl
@[simp] theorem Block.withBseRem_code : (b.withBseRem v).code = b.code := rfl
@[simp] theorem Block.withBseRem_result : (b.withBseRem v).result = b.result := rfl
@[simp] theorem Block.withBseRem_faultCw : (b.withBseRem v).faultCw = b.faultCw := rfl
@[simp] theorem Block.withBseRem_tdeTable : (b.withBseRem v).tdeTable = b.tdeTable := rfl
@[simp] theorem Block.withBseRem_augTable : (b.withBseRem v).augTable = b.augTable := rfl
@[simp] theorem Block.withBseRem_buf : (b.withBseRem v).buf = b.buf := rfl
@[simp] theorem Block.withBseRem_pending : (b.withBseRem v).pending = b.pending := rfl
@[simp] theorem Block.withBseRem_answers : (b.withBseRem v).answers = b.answers := rfl
@[simp] theorem Block.withBseRem_freeCount : (b.withBseRem v).freeCount = b.freeCount := rfl
@[simp] theorem Block.withBseRem_width : (b.withBseRem v).width = b.width := rfl
@[simp] theorem Block.withBseRem_sig : (b.withBseRem v).sig = b.sig := rfl

end withBseRem

/-! `TDE_REM <- v`. -/

section withTdeRem

variable {p : Params} (b : Block p) (v : Word p)

@[simp] theorem Block.withTdeRem_bseRem : (b.withTdeRem v).bseRem = b.bseRem := rfl
@[simp] theorem Block.withTdeRem_tdeRem : (b.withTdeRem v).tdeRem = v := rfl
@[simp] theorem Block.withTdeRem_cfgWidth : (b.withTdeRem v).cfgWidth = b.cfgWidth := rfl
@[simp] theorem Block.withTdeRem_cfgPoly : (b.withTdeRem v).cfgPoly = b.cfgPoly := rfl
@[simp] theorem Block.withTdeRem_cfgInit : (b.withTdeRem v).cfgInit = b.cfgInit := rfl
@[simp] theorem Block.withTdeRem_cfgXorout : (b.withTdeRem v).cfgXorout = b.cfgXorout := rfl
@[simp] theorem Block.withTdeRem_cfgCtrl : (b.withTdeRem v).cfgCtrl = b.cfgCtrl := rfl
@[simp] theorem Block.withTdeRem_pW : (b.withTdeRem v).pW = b.pW := rfl
@[simp] theorem Block.withTdeRem_pPoly : (b.withTdeRem v).pPoly = b.pPoly := rfl
@[simp] theorem Block.withTdeRem_pInit : (b.withTdeRem v).pInit = b.pInit := rfl
@[simp] theorem Block.withTdeRem_pXorout : (b.withTdeRem v).pXorout = b.pXorout := rfl
@[simp] theorem Block.withTdeRem_pRefin : (b.withTdeRem v).pRefin = b.pRefin := rfl
@[simp] theorem Block.withTdeRem_pRefout : (b.withTdeRem v).pRefout = b.pRefout := rfl
@[simp] theorem Block.withTdeRem_argA : (b.withTdeRem v).argA = b.argA := rfl
@[simp] theorem Block.withTdeRem_argOff : (b.withTdeRem v).argOff = b.argOff := rfl
@[simp] theorem Block.withTdeRem_argSize : (b.withTdeRem v).argSize = b.argSize := rfl
@[simp] theorem Block.withTdeRem_mode : (b.withTdeRem v).mode = b.mode := rfl
@[simp] theorem Block.withTdeRem_rvalid : (b.withTdeRem v).rvalid = b.rvalid := rfl
@[simp] theorem Block.withTdeRem_code : (b.withTdeRem v).code = b.code := rfl
@[simp] theorem Block.withTdeRem_result : (b.withTdeRem v).result = b.result := rfl
@[simp] theorem Block.withTdeRem_faultCw : (b.withTdeRem v).faultCw = b.faultCw := rfl
@[simp] theorem Block.withTdeRem_tdeTable : (b.withTdeRem v).tdeTable = b.tdeTable := rfl
@[simp] theorem Block.withTdeRem_augTable : (b.withTdeRem v).augTable = b.augTable := rfl
@[simp] theorem Block.withTdeRem_buf : (b.withTdeRem v).buf = b.buf := rfl
@[simp] theorem Block.withTdeRem_pending : (b.withTdeRem v).pending = b.pending := rfl
@[simp] theorem Block.withTdeRem_answers : (b.withTdeRem v).answers = b.answers := rfl
@[simp] theorem Block.withTdeRem_freeCount : (b.withTdeRem v).freeCount = b.freeCount := rfl
@[simp] theorem Block.withTdeRem_width : (b.withTdeRem v).width = b.width := rfl
@[simp] theorem Block.withTdeRem_sig : (b.withTdeRem v).sig = b.sig := rfl

end withTdeRem

/-! `RESULT <- v; RVALID <- 1`. -/

section withResult

variable {p : Params} (b : Block p) (v : Word p)

@[simp] theorem Block.withResult_bseRem : (b.withResult v).bseRem = b.bseRem := rfl
@[simp] theorem Block.withResult_tdeRem : (b.withResult v).tdeRem = b.tdeRem := rfl
@[simp] theorem Block.withResult_cfgWidth : (b.withResult v).cfgWidth = b.cfgWidth := rfl
@[simp] theorem Block.withResult_cfgPoly : (b.withResult v).cfgPoly = b.cfgPoly := rfl
@[simp] theorem Block.withResult_cfgInit : (b.withResult v).cfgInit = b.cfgInit := rfl
@[simp] theorem Block.withResult_cfgXorout : (b.withResult v).cfgXorout = b.cfgXorout := rfl
@[simp] theorem Block.withResult_cfgCtrl : (b.withResult v).cfgCtrl = b.cfgCtrl := rfl
@[simp] theorem Block.withResult_pW : (b.withResult v).pW = b.pW := rfl
@[simp] theorem Block.withResult_pPoly : (b.withResult v).pPoly = b.pPoly := rfl
@[simp] theorem Block.withResult_pInit : (b.withResult v).pInit = b.pInit := rfl
@[simp] theorem Block.withResult_pXorout : (b.withResult v).pXorout = b.pXorout := rfl
@[simp] theorem Block.withResult_pRefin : (b.withResult v).pRefin = b.pRefin := rfl
@[simp] theorem Block.withResult_pRefout : (b.withResult v).pRefout = b.pRefout := rfl
@[simp] theorem Block.withResult_argA : (b.withResult v).argA = b.argA := rfl
@[simp] theorem Block.withResult_argOff : (b.withResult v).argOff = b.argOff := rfl
@[simp] theorem Block.withResult_argSize : (b.withResult v).argSize = b.argSize := rfl
@[simp] theorem Block.withResult_mode : (b.withResult v).mode = b.mode := rfl
@[simp] theorem Block.withResult_rvalid : (b.withResult v).rvalid = true := rfl
@[simp] theorem Block.withResult_code : (b.withResult v).code = b.code := rfl
@[simp] theorem Block.withResult_result : (b.withResult v).result = v := rfl
@[simp] theorem Block.withResult_faultCw : (b.withResult v).faultCw = b.faultCw := rfl
@[simp] theorem Block.withResult_tdeTable : (b.withResult v).tdeTable = b.tdeTable := rfl
@[simp] theorem Block.withResult_augTable : (b.withResult v).augTable = b.augTable := rfl
@[simp] theorem Block.withResult_buf : (b.withResult v).buf = b.buf := rfl
@[simp] theorem Block.withResult_pending : (b.withResult v).pending = b.pending := rfl
@[simp] theorem Block.withResult_answers : (b.withResult v).answers = b.answers := rfl
@[simp] theorem Block.withResult_freeCount : (b.withResult v).freeCount = b.freeCount := rfl
@[simp] theorem Block.withResult_width : (b.withResult v).width = b.width := rfl
@[simp] theorem Block.withResult_sig : (b.withResult v).sig = b.sig := rfl

end withResult

/-! Fault entry. -/

section enterFault

variable {p : Params} (b : Block p) (c : ErrCode) (cw : Word32)

@[simp] theorem Block.enterFault_bseRem : (b.enterFault c cw).bseRem = b.bseRem := rfl
@[simp] theorem Block.enterFault_tdeRem : (b.enterFault c cw).tdeRem = b.tdeRem := rfl
@[simp] theorem Block.enterFault_cfgWidth : (b.enterFault c cw).cfgWidth = b.cfgWidth := rfl
@[simp] theorem Block.enterFault_cfgPoly : (b.enterFault c cw).cfgPoly = b.cfgPoly := rfl
@[simp] theorem Block.enterFault_cfgInit : (b.enterFault c cw).cfgInit = b.cfgInit := rfl
@[simp] theorem Block.enterFault_cfgXorout : (b.enterFault c cw).cfgXorout = b.cfgXorout := rfl
@[simp] theorem Block.enterFault_cfgCtrl : (b.enterFault c cw).cfgCtrl = b.cfgCtrl := rfl
@[simp] theorem Block.enterFault_pW : (b.enterFault c cw).pW = b.pW := rfl
@[simp] theorem Block.enterFault_pPoly : (b.enterFault c cw).pPoly = b.pPoly := rfl
@[simp] theorem Block.enterFault_pInit : (b.enterFault c cw).pInit = b.pInit := rfl
@[simp] theorem Block.enterFault_pXorout : (b.enterFault c cw).pXorout = b.pXorout := rfl
@[simp] theorem Block.enterFault_pRefin : (b.enterFault c cw).pRefin = b.pRefin := rfl
@[simp] theorem Block.enterFault_pRefout : (b.enterFault c cw).pRefout = b.pRefout := rfl
@[simp] theorem Block.enterFault_argA : (b.enterFault c cw).argA = b.argA := rfl
@[simp] theorem Block.enterFault_argOff : (b.enterFault c cw).argOff = b.argOff := rfl
@[simp] theorem Block.enterFault_argSize : (b.enterFault c cw).argSize = b.argSize := rfl
@[simp] theorem Block.enterFault_mode : (b.enterFault c cw).mode = .faulted := rfl
@[simp] theorem Block.enterFault_rvalid : (b.enterFault c cw).rvalid = b.rvalid := rfl
@[simp] theorem Block.enterFault_code : (b.enterFault c cw).code = some c := rfl
@[simp] theorem Block.enterFault_result : (b.enterFault c cw).result = b.result := rfl
@[simp] theorem Block.enterFault_faultCw : (b.enterFault c cw).faultCw = cw := rfl
@[simp] theorem Block.enterFault_tdeTable : (b.enterFault c cw).tdeTable = b.tdeTable := rfl
@[simp] theorem Block.enterFault_augTable : (b.enterFault c cw).augTable = b.augTable := rfl
@[simp] theorem Block.enterFault_buf : (b.enterFault c cw).buf = b.buf := rfl
@[simp] theorem Block.enterFault_pending : (b.enterFault c cw).pending = b.pending := rfl
@[simp] theorem Block.enterFault_answers : (b.enterFault c cw).answers = b.answers := rfl
@[simp] theorem Block.enterFault_freeCount : (b.enterFault c cw).freeCount = b.freeCount := rfl
@[simp] theorem Block.enterFault_width : (b.enterFault c cw).width = b.width := rfl
@[simp] theorem Block.enterFault_sig : (b.enterFault c cw).sig = b.sig := rfl

end enterFault

/-! A free value is handed out. -/

section tick

variable {p : Params} (b : Block p)

@[simp] theorem Block.tick_bseRem : b.tick.bseRem = b.bseRem := rfl
@[simp] theorem Block.tick_tdeRem : b.tick.tdeRem = b.tdeRem := rfl
@[simp] theorem Block.tick_cfgWidth : b.tick.cfgWidth = b.cfgWidth := rfl
@[simp] theorem Block.tick_cfgPoly : b.tick.cfgPoly = b.cfgPoly := rfl
@[simp] theorem Block.tick_cfgInit : b.tick.cfgInit = b.cfgInit := rfl
@[simp] theorem Block.tick_cfgXorout : b.tick.cfgXorout = b.cfgXorout := rfl
@[simp] theorem Block.tick_cfgCtrl : b.tick.cfgCtrl = b.cfgCtrl := rfl
@[simp] theorem Block.tick_pW : b.tick.pW = b.pW := rfl
@[simp] theorem Block.tick_pPoly : b.tick.pPoly = b.pPoly := rfl
@[simp] theorem Block.tick_pInit : b.tick.pInit = b.pInit := rfl
@[simp] theorem Block.tick_pXorout : b.tick.pXorout = b.pXorout := rfl
@[simp] theorem Block.tick_pRefin : b.tick.pRefin = b.pRefin := rfl
@[simp] theorem Block.tick_pRefout : b.tick.pRefout = b.pRefout := rfl
@[simp] theorem Block.tick_argA : b.tick.argA = b.argA := rfl
@[simp] theorem Block.tick_argOff : b.tick.argOff = b.argOff := rfl
@[simp] theorem Block.tick_argSize : b.tick.argSize = b.argSize := rfl
@[simp] theorem Block.tick_mode : b.tick.mode = b.mode := rfl
@[simp] theorem Block.tick_rvalid : b.tick.rvalid = b.rvalid := rfl
@[simp] theorem Block.tick_code : b.tick.code = b.code := rfl
@[simp] theorem Block.tick_result : b.tick.result = b.result := rfl
@[simp] theorem Block.tick_faultCw : b.tick.faultCw = b.faultCw := rfl
@[simp] theorem Block.tick_tdeTable : b.tick.tdeTable = b.tdeTable := rfl
@[simp] theorem Block.tick_augTable : b.tick.augTable = b.augTable := rfl
@[simp] theorem Block.tick_buf : b.tick.buf = b.buf := rfl
@[simp] theorem Block.tick_pending : b.tick.pending = b.pending := rfl
@[simp] theorem Block.tick_answers : b.tick.answers = b.answers := rfl
@[simp] theorem Block.tick_freeCount : b.tick.freeCount = b.freeCount + 1 := rfl
@[simp] theorem Block.tick_width : b.tick.width = b.width := rfl
@[simp] theorem Block.tick_sig : b.tick.sig = b.sig := rfl

end tick

/-! A `construct` that passed its checks. -/

section latch

variable {p : Params} (b : Block p)

@[simp] theorem Block.latch_bseRem : b.latch.bseRem = b.cfgInit := rfl
@[simp] theorem Block.latch_tdeRem : b.latch.tdeRem =
    reflectHelper b.cfgWidth.toNat b.cfgInit (b.cfgCtrl.getLsbD 0) := rfl
@[simp] theorem Block.latch_cfgWidth : b.latch.cfgWidth = b.cfgWidth := rfl
@[simp] theorem Block.latch_cfgPoly : b.latch.cfgPoly = b.cfgPoly := rfl
@[simp] theorem Block.latch_cfgInit : b.latch.cfgInit = b.cfgInit := rfl
@[simp] theorem Block.latch_cfgXorout : b.latch.cfgXorout = b.cfgXorout := rfl
@[simp] theorem Block.latch_cfgCtrl : b.latch.cfgCtrl = b.cfgCtrl := rfl
@[simp] theorem Block.latch_pW : b.latch.pW = b.cfgWidth := rfl
@[simp] theorem Block.latch_pPoly : b.latch.pPoly = b.cfgPoly := rfl
@[simp] theorem Block.latch_pInit : b.latch.pInit = b.cfgInit := rfl
@[simp] theorem Block.latch_pXorout : b.latch.pXorout = b.cfgXorout := rfl
@[simp] theorem Block.latch_pRefin : b.latch.pRefin = b.cfgCtrl.getLsbD 0 := rfl
@[simp] theorem Block.latch_pRefout : b.latch.pRefout = b.cfgCtrl.getLsbD 1 := rfl
@[simp] theorem Block.latch_argA : b.latch.argA = b.argA := rfl
@[simp] theorem Block.latch_argOff : b.latch.argOff = b.argOff := rfl
@[simp] theorem Block.latch_argSize : b.latch.argSize = b.argSize := rfl
@[simp] theorem Block.latch_mode : b.latch.mode = .ready := rfl
@[simp] theorem Block.latch_rvalid : b.latch.rvalid = b.rvalid := rfl
@[simp] theorem Block.latch_code : b.latch.code = b.code := rfl
@[simp] theorem Block.latch_result : b.latch.result = b.result := rfl
@[simp] theorem Block.latch_faultCw : b.latch.faultCw = b.faultCw := rfl
@[simp] theorem Block.latch_tdeTable : b.latch.tdeTable =
    buildTable b.cfgWidth.toNat b.cfgPoly (b.cfgCtrl.getLsbD 0) := rfl
@[simp] theorem Block.latch_augTable : b.latch.augTable = buildTable b.cfgWidth.toNat b.cfgPoly false := rfl
@[simp] theorem Block.latch_buf : b.latch.buf = b.buf := rfl
@[simp] theorem Block.latch_pending : b.latch.pending = b.pending := rfl
@[simp] theorem Block.latch_answers : b.latch.answers = b.answers := rfl
@[simp] theorem Block.latch_freeCount : b.latch.freeCount = b.freeCount := rfl
@[simp] theorem Block.latch_width : b.latch.width = b.cfgWidth.toNat := rfl
@[simp] theorem Block.latch_sig : b.latch.sig = significantBitsMask p.regw b.cfgWidth.toNat := rfl

end latch

end Sys2Proof.Machine
end

