-- ==== Sys2Proof/Laws/Ops.lean ====
section
/-! SUPPORT. One lemma per shared operation: the buffer's reads and writes and their canonical form, reading a range,
the guard in front of a command, and what it takes for one to answer a next state. -/

namespace Sys2Proof.Machine

/-! ### The buffer (R51 to R53) -/

/-- A byte written is the byte read. -/
@[simp] theorem Memory.read_write_self (m : Memory) (addr : Nat) (b : Byte) :
    (Memory.write m addr b).read addr = some b := by
  induction m with
  | nil => simp [Memory.write, Memory.read]
  | cons c m ih =>
    simp only [Memory.write]
    split
    · simp [Memory.read]
    · split
      · simp [Memory.read]
      · rename_i h
        simp [Memory.read, Ne.symm h, ih]

/-- A write leaves every other address alone. -/
theorem Memory.read_write_of_ne (m : Memory) (addr a : Nat) (b : Byte) (h : a ≠ addr) :
    (Memory.write m addr b).read a = Memory.read m a := by
  induction m with
  | nil => simp [Memory.write, Memory.read, Ne.symm h]
  | cons c m ih =>
    simp only [Memory.write]
    split
    · simp [Memory.read, Ne.symm h]
    · split
      · rename_i e
        simp [Memory.read, ← e, Ne.symm h]
      · simp [Memory.read, ih]

/-- The addresses of a written buffer are the old ones and the new one. -/
theorem Memory.mem_write (m : Memory) (addr : Nat) (b : Byte) (c : Host.Cell) (h : c ∈ Memory.write m addr b) :
    c ∈ m ∨ c = (addr, b) := by
  induction m with
  | nil => simp_all [Memory.write]
  | cons d m ih =>
    simp only [Memory.write] at h
    split at h
    · simp_all only [List.mem_cons]; tauto
    · split at h
      · simp_all only [List.mem_cons]; tauto
      · simp_all only [List.mem_cons]; tauto

/-- A write keeps the canonical form. -/
theorem Memory.write_wf (m : Memory) (addr : Nat) (b : Byte) (h : m.wf) : (Memory.write m addr b).wf := by
  induction m with
  | nil => simp [Memory.write, Memory.wf]
  | cons c m ih =>
    simp only [Memory.wf, List.pairwise_cons] at h
    simp only [Memory.write]
    split
    · rename_i lt
      simp only [Memory.wf, List.pairwise_cons, List.mem_cons]
      exact ⟨fun d hd => hd.elim (fun e => e ▸ lt) fun hd => Nat.lt_trans lt (h.1 d hd), h⟩
    · split
      · rename_i e
        simp only [Memory.wf, List.pairwise_cons]
        exact ⟨fun d hd => e ▸ h.1 d hd, h.2⟩
      · simp only [Memory.wf, List.pairwise_cons]
        refine ⟨fun d hd => ?_, ih h.2⟩
        obtain hd | rfl := Memory.mem_write m addr b d hd
        · exact h.1 d hd
        · simp only; omega

/-- The buffer right after reset is in canonical form. -/
theorem reset_buf_wf (p : Params) : (Block.reset : Block p).buf.wf := by simp [Block.reset, Memory.wf]

/-- Nothing of the buffer has a value right after reset (R38). -/
@[simp] theorem reset_buf_read (p : Params) (addr : Nat) : (Block.reset : Block p).buf.read addr = none := rfl

/-- Reading a range succeeds exactly with the bytes that stand there, in ascending order (R52). -/
theorem Memory.readRange_eq_ok (m : Memory) (off n : Nat) (bytes : List Byte) :
    m.readRange off n = .ok bytes ↔
      bytes.length = n ∧ ∀ k, (h : k < bytes.length) → m.read (off + k) = some bytes[k] := by
  induction n generalizing off bytes with
  | zero =>
    constructor
    · intro h
      cases h
      simp
    · rintro ⟨h, -⟩
      rw [List.length_eq_zero_iff] at h
      subst h
      rfl
  | succ n ih =>
    simp only [Memory.readRange]
    cases hb : m.read off with
    | none =>
      simp only [reduceCtorEq, false_iff, not_and]
      intro hl h
      have := h 0 (by omega)
      simp [hb] at this
    | some b =>
      cases hr : m.readRange (off + 1) n with
      | error a =>
        simp only [reduceCtorEq, false_iff, not_and]
        intro hl h
        cases bytes with
        | nil => simp at hl
        | cons c bs =>
          have := (ih (off + 1) bs).2 ⟨by simpa using hl, fun k hk => by
            rw [show off + 1 + k = off + (k + 1) by omega]
            exact h (k + 1) (by simpa using hk)⟩
          simp [hr] at this
      | ok cs =>
        have hcs := (ih (off + 1) cs).1 hr
        simp only [Except.ok.injEq]
        constructor
        · rintro rfl
          refine ⟨by simp [hcs.1], fun k hk => ?_⟩
          cases k with
          | zero => simpa using hb
          | succ k =>
            have := hcs.2 k (by simpa using hk)
            simpa [Nat.add_assoc, Nat.add_comm 1 k] using this
        · rintro ⟨hl, h⟩
          cases bytes with
          | nil => simp at hl
          | cons c bs =>
            have hc := h 0 (by simp)
            have hbs := (ih (off + 1) bs).2 ⟨by simpa using hl, fun k hk => by
              rw [show off + 1 + k = off + (k + 1) by omega]
              exact h (k + 1) (by simpa using hk)⟩
            rw [hr] at hbs
            simp_all

/-- Reading a range fails exactly at its first byte without a value (R52). -/
theorem Memory.readRange_eq_error (m : Memory) (off n addr : Nat) :
    m.readRange off n = .error addr ↔
      off ≤ addr ∧ addr < off + n ∧ m.read addr = none ∧ ∀ a, off ≤ a → a < addr → m.read a ≠ none := by
  induction n generalizing off with
  | zero => simp [Memory.readRange]; omega
  | succ n ih =>
    simp only [Memory.readRange]
    cases hb : m.read off with
    | none =>
      simp only [Except.error.injEq]
      constructor
      · rintro rfl
        exact ⟨Nat.le_refl _, by omega, hb, by omega⟩
      · rintro ⟨h1, -, -, h4⟩
        by_contra hne
        exact h4 off (Nat.le_refl _) (by omega) hb
    | some b =>
      have key : m.readRange (off + 1) n = .error addr ↔
          off ≤ addr ∧ addr < off + (n + 1) ∧ m.read addr = none ∧ ∀ a, off ≤ a → a < addr → m.read a ≠ none := by
        rw [ih (off + 1)]
        constructor
        · rintro ⟨h1, h2, h3, h4⟩
          refine ⟨by omega, by omega, h3, fun a ha hlt => ?_⟩
          obtain rfl | hgt := Nat.eq_or_lt_of_le ha
          · simp [hb]
          · exact h4 a hgt hlt
        · rintro ⟨h1, h2, h3, h4⟩
          have : off ≠ addr := by rintro rfl; simp [hb] at h3
          exact ⟨by omega, by omega, h3, fun a ha hlt => h4 a (by omega) hlt⟩
      rw [← key]
      cases hr : m.readRange (off + 1) n <;> simp

/-! ### Responses, and the step of an event -/

/-- The machine goes on with the block, at its own parameters. -/
@[simp] theorem goOn_eq {p : Params} (b : Block p) : goOn b = .next ⟨p, b⟩ := rfl

/-- `OK` changes nothing but the answers. -/
@[simp] theorem respondOk_eq {p : Params} (b : Block p) : respondOk b = .next ⟨p, b.answer .ok⟩ := rfl

/-- `VAL(v)` changes `RESULT`, `RVALID` and the answers. -/
@[simp] theorem respondVal_eq {p : Params} (b : Block p) (v : Word p) :
    respondVal b v = .next ⟨p, (b.withResult v).answer (.val v)⟩ := rfl

/-- Fault entry changes `MODE`, `CODE`, `FAULT_CW` and the answers (R183). -/
@[simp] theorem raiseFault_eq {p : Params} (b : Block p) (code : ErrCode) (cw : Word32) :
    raiseFault b code cw = .next ⟨p, (b.enterFault code cw).answer (.err code)⟩ := rfl

/-- A command in `FAULTED` changes nothing but the answers (R184). -/
@[simp] theorem respondFaulted_eq {p : Params} (b : Block p) :
    respondFaulted b = .next ⟨p, b.answer (.err .faulted)⟩ := rfl

/-- With nothing pending the state stays (R195). -/
theorem step_idle {p : Params} {b : Block p} (h : b.pending = []) : step ⟨p, b⟩ = .next ⟨p, b⟩ := by simp [step, h]

/-- With an event pending the step performs it, on the block with the event taken off the host's list (R70). -/
theorem step_event {p : Params} {b : Block p} {e : HostEvent} {rest : List HostEvent} (h : b.pending = e :: rest) :
    step ⟨p, b⟩ = perform e { b with pending := rest } := by simp [step, h]

/-- A run goes on from the state its first step leaves. -/
theorem core_run_succ {s t : State} (h : step s = .next t) (k : Nat) :
    Sys2Proof.core.run (k + 1) s = Sys2Proof.core.run k t := by
  have e : Sys2Proof.core.step s = .next t := h
  simp [Host.Core.run, e]

/-! ### The guard of a command (R182, R183) -/

/-- In `READY` the command'b own rule decides. -/
@[simp] theorem whenReady_ready {i : Instr} {p : Params} {b : Block p} {body : Outcome} (h : b.mode = .ready) :
    whenReady i b body = body := by simp [whenReady, h]

/-- In `UNCONFIGURED` the command is `ERR_NOT_CONFIGURED`. -/
@[simp] theorem whenReady_unconfigured {i : Instr} {p : Params} {b : Block p} {body : Outcome} (h : b.mode = .unconfigured) :
    whenReady i b body = raiseFault b .notConfigured (encode i) := by simp [whenReady, h]

/-- In `FAULTED` the command is answered `ERR_FAULTED`. -/
@[simp] theorem whenReady_faulted {i : Instr} {p : Params} {b : Block p} {body : Outcome} (h : b.mode = .faulted) :
    whenReady i b body = respondFaulted b := by simp [whenReady, h]

/-- Everything a guarded command can do. -/
theorem whenReady_cases (i : Instr) {p : Params} (b : Block p) (body : Outcome) :
    (b.mode = .faulted ∧ whenReady i b body = respondFaulted b) ∨
    (b.mode = .unconfigured ∧ whenReady i b body = raiseFault b .notConfigured (encode i)) ∨
    (b.mode = .ready ∧ whenReady i b body = body) := by
  cases h : b.mode <;> simp [h]

/-- A guarded command that answers: it was turned away in `FAULTED`, faulted in `UNCONFIGURED`, or its own rule
answered. -/
theorem whenReady_next {i : Instr} {p : Params} {b : Block p} {t : State} {body : Outcome} (h : whenReady i b body = .next t) :
    (b.mode = .faulted ∧ t = ⟨p, b.answer (.err .faulted)⟩) ∨
    (b.mode = .unconfigured ∧ t = ⟨p, (b.enterFault .notConfigured (encode i)).answer (.err .notConfigured)⟩) ∨
    (b.mode = .ready ∧ body = .next t) := by
  obtain ⟨hm, e⟩ | ⟨hm, e⟩ | ⟨hm, e⟩ := whenReady_cases i b body <;> rw [e] at h
  · exact .inl ⟨hm, by cases h; rfl⟩
  · exact .inr (.inl ⟨hm, by cases h; rfl⟩)
  · exact .inr (.inr ⟨hm, h⟩)

/-- A range command whose range holds these bytes uses them (R52, R58). -/
theorem withMessage_holds {i : Instr} {p : Params} {b : Block p} {use : List Byte → Outcome} {bytes : List Byte}
    (h : b.RangeHolds bytes) : withMessage i b use = use bytes := by
  obtain ⟨hl, hb, hr⟩ := h
  have hm : b.message = .ok bytes := (Memory.readRange_eq_ok _ _ _ _).2 ⟨hl, hr⟩
  simp [withMessage, Block.rangeOk, hm, ← hl, hb]

/-- Everything a range command can do: fault on the bounds, refuse an unwritten byte, or use the bytes that stand in
the range. -/
theorem withMessage_cases (i : Instr) {p : Params} (b : Block p) (use : List Byte → Outcome) :
    (p.bufsz < b.argOff.toNat + b.argSize.toNat ∧ withMessage i b use = raiseFault b .range (encode i)) ∨
    (b.argOff.toNat + b.argSize.toNat ≤ p.bufsz ∧ ∃ addr, b.argOff.toNat ≤ addr ∧
      addr < b.argOff.toNat + b.argSize.toNat ∧ b.buf.read addr = none ∧
      (∀ a, b.argOff.toNat ≤ a → a < addr → b.buf.read a ≠ none) ∧
      withMessage i b use = .refused (.unwrittenByte addr)) ∨
    (∃ bytes, b.RangeHolds bytes ∧ withMessage i b use = use bytes) := by
  by_cases h : b.argOff.toNat + b.argSize.toNat ≤ p.bufsz
  · have ho : b.rangeOk = true := by simpa [Block.rangeOk] using h
    cases hm : b.message with
    | error addr =>
      obtain ⟨h1, h2, h3, h4⟩ := (Memory.readRange_eq_error _ _ _ _).1 hm
      exact .inr (.inl ⟨h, addr, h1, h2, h3, h4, by simp [withMessage, ho, hm]⟩)
    | ok bytes =>
      obtain ⟨hl, hr⟩ := (Memory.readRange_eq_ok _ _ _ _).1 hm
      exact .inr (.inr ⟨bytes, ⟨hl, by omega, hr⟩, by simp [withMessage, ho, hm]⟩)
  · refine .inl ⟨by omega, ?_⟩
    have ho : b.rangeOk = false := by simpa [Block.rangeOk] using h
    simp [withMessage, ho]

/-- A range command that answers: the bounds failed, or it used the bytes of the range. -/
theorem withMessage_next {i : Instr} {p : Params} {b : Block p} {t : State} {use : List Byte → Outcome} (h : withMessage i b use = .next t) :
    t = ⟨p, (b.enterFault .range (encode i)).answer (.err .range)⟩ ∨ ∃ bytes, b.RangeHolds bytes ∧ use bytes = .next t := by
  obtain ⟨-, e⟩ | ⟨-, addr, -, -, -, -, e⟩ | ⟨bytes, hb, e⟩ := withMessage_cases i b use <;> rw [e] at h
  · exact .inl (by cases h; rfl)
  · cases h
  · exact .inr ⟨bytes, hb, h⟩

end Sys2Proof.Machine
end

