-- ==== Sys2Proof/Laws/PerInstr.lean ====
section
/-! SUPPORT. What is stated of every instruction as syntax, one lemma per constructor.

The family `WordFields`: the fields of the instruction's word are what R71 and R79 give it: its unit, its operation,
and zero in `rsv`. -/

namespace Sys2Proof.Laws.WordFields

/-- The unit and the operation of a command (R79). -/
def unitOp : Instr → BitVec 4 × BitVec 4
  | .construct => (0, 1)
  | .bsePbit _ => (1, 0)
  | .bsePbits _ _ => (1, 1)
  | .bsePbyte _ => (1, 2)
  | .bsePbytes => (1, 3)
  | .bseReset => (1, 4)
  | .bseResetv => (1, 5)
  | .bseInterim => (1, 6)
  | .bseChecksum => (1, 7)
  | .tdePbyte _ => (2, 2)
  | .tdePbytes => (2, 3)
  | .tdeReset => (2, 4)
  | .tdeResetv => (2, 5)
  | .tdeInterim => (2, 6)
  | .tdeChecksum => (2, 7)
  | .tbRead _ _ => (3, 0)
  | .augCalc => (4, 0)

/-- `unit = cw[31:28]`, `op = cw[27:24]`, and `rsv = cw[23:12]` is zero (R71, R79). -/
abbrev Statement (i : Instr) : Prop :=
  (encode i).extractLsb' 28 4 = (unitOp i).1 ∧ (encode i).extractLsb' 24 4 = (unitOp i).2 ∧
    (encode i).extractLsb' 12 12 = 0

/-- A zero-extended byte has no bit above its own. -/
theorem extract_byte (b : Byte) (start len : Nat) (h : 8 ≤ start) :
    (b.setWidth 32).extractLsb' start len = 0 := by
  apply BitVec.eq_of_getLsbD_eq
  intro i _
  have : b.getLsbD (start + i) = false := BitVec.getLsbD_of_ge _ _ (by omega)
  simp [this]

/-- A count in `cw[11:8]` has no bit above bit 11. -/
theorem extract_cnt (c : BitVec 4) (start len : Nat) (h : 12 ≤ start) :
    (c.setWidth 32 <<< 8).extractLsb' start len = 0 := by
  apply BitVec.eq_of_getLsbD_eq
  intro i _
  have : c.getLsbD (start + i - 8) = false := BitVec.getLsbD_of_ge _ _ (by omega)
  simp [this]

theorem construct : Statement .construct := by decide
theorem bsePbit (bit : Bool) : Statement (.bsePbit bit) := by cases bit <;> decide
theorem bsePbits (val : Byte) (cnt : BitVec 4) : Statement (.bsePbits val cnt) := by
  simp [Statement, encode, unitOp, BitVec.extractLsb'_or, extract_byte, extract_cnt]
theorem bsePbyte (byte : Byte) : Statement (.bsePbyte byte) := by
  simp [Statement, encode, unitOp, BitVec.extractLsb'_or, extract_byte]
theorem bsePbytes : Statement .bsePbytes := by decide
theorem bseReset : Statement .bseReset := by decide
theorem bseResetv : Statement .bseResetv := by decide
theorem bseInterim : Statement .bseInterim := by decide
theorem bseChecksum : Statement .bseChecksum := by decide
theorem tdePbyte (byte : Byte) : Statement (.tdePbyte byte) := by
  simp [Statement, encode, unitOp, BitVec.extractLsb'_or, extract_byte]
theorem tdePbytes : Statement .tdePbytes := by decide
theorem tdeReset : Statement .tdeReset := by decide
theorem tdeResetv : Statement .tdeResetv := by decide
theorem tdeInterim : Statement .tdeInterim := by decide
theorem tdeChecksum : Statement .tdeChecksum := by decide
theorem tbRead (sel : Bool) (idx : Byte) : Statement (.tbRead sel idx) := by
  cases sel <;> simp [Statement, encode, unitOp, BitVec.extractLsb'_or, extract_byte]
theorem augCalc : Statement .augCalc := by decide

end Sys2Proof.Laws.WordFields
end

