-- ==== Sys2Proof/Tests/Slice0.lean ====
section
/-! SUPPORT. Tests.  Expected values are the spec's: R81 and R83 for words, the rules' own examples and V11 to V34 for
results (each named at its test).  The last part shows, for each statement with hypotheses, a state and operands that
meet them together. -/

namespace Sys2Proof.Tests

open Sys2Proof.Machine Sys2Proof.Claims

/-! ### Helpers -/

/-- The next block, if there is one and it has these parameters. -/
def next? (p : Params) : Outcome → Option (Block p)
  | .next ⟨q, b⟩ => if h : q = p then some (h ▸ b) else none
  | .fault _ | .refused _ => none

/-- One command on a block. -/
def try? {p : Params} (i : Instr) (b : Block p) : Option (Block p) := next? p (exec i ⟨p, b⟩)

/-- One step of a block that faces these events. -/
def step? {p : Params} (b : Block p) (es : List HostEvent) : Option (Block p) :=
  next? p (step ⟨p, { b with pending := es }⟩)

/-- The parameters of V13, V14 and P4. -/
def small : Params := ⟨8, 16, by decide, by decide, by decide⟩

/-- The parameters of P2, P3 and P5. -/
def medium : Params := ⟨16, 16, by decide, by decide, by decide⟩

/-- A block that has constructed these parameters. -/
def configured {p : Params} (w : Word32) (poly init xorout : Word p) (refin refout : Bool) : Block p :=
  { Block.reset with
    mode := .ready, pW := w, pPoly := poly, pInit := init, pXorout := xorout, pRefin := refin, pRefout := refout,
    tdeTable := buildTable w.toNat poly refin, augTable := buildTable w.toNat poly false,
    bseRem := init, tdeRem := reflectHelper w.toNat init refin }

/-- The CRC-8 parameters of R14. -/
def crc8 : Block suggestedParams := configured 8 0x07 0 0 false false

/-- The CRC-32 parameters of R14. -/
def crc32 : Block suggestedParams := configured 32 0x04C11DB7 0xFFFFFFFF 0xFFFFFFFF true true

/-- The parameters of V17, with `P_REFIN = 1` and `P_REFOUT = 0`. -/
def mixed : Block suggestedParams := configured 16 0x1021 0x1D0F 0x0001 true false

/-- A block right after reset, at the parameters of `fresh`. -/
def fresh : Block suggestedParams := Block.reset

/-- A block in `FAULTED`. -/
def broken : Block suggestedParams :=
  { crc8 with mode := .faulted, code := some .bitCount, faultCw := 0x11000931, answers := [.err .bitCount] }

/-- A block with these events pending. -/
def facing {p : Params} (b : Block p) (es : List HostEvent) : Block p := { b with pending := es }

/-- A block with these bytes at the top of the buffer, and the operand range on them. -/
def holding {p : Params} (b : Block p) (bytes : List Byte) : Block p :=
  { b with
    buf := (List.range bytes.length).foldl (fun m k => m.write (p.bufsz - bytes.length + k) (bytes.getD k 0)) []
    argOff := BitVec.ofNat 32 (p.bufsz - bytes.length), argSize := BitVec.ofNat 32 bytes.length }

/-- A block with staged parameters, not yet constructed. -/
def staged (w : Word32) (poly init : Word suggestedParams) (ctrl : BitVec 2) : Block suggestedParams :=
  { Block.reset with cfgWidth := w, cfgPoly := poly, cfgInit := init, cfgCtrl := ctrl }

/-! ### Well-formedness (R83) -/

theorem test_ill_formed_bit : assemble (.bsePbit 2) = none := by decide
theorem test_ill_formed_val : assemble (.bsePbits 256 8) = none := by decide
theorem test_ill_formed_cnt : assemble (.bsePbits 0x31 16) = none := by decide
theorem test_ill_formed_bse_byte : assemble (.bsePbyte 256) = none := by decide
theorem test_ill_formed_tde_byte : assemble (.tdePbyte 256) = none := by decide
theorem test_ill_formed_sel : assemble (.tbRead 2 0) = none := by decide
theorem test_ill_formed_idx : assemble (.tbRead 0 256) = none := by decide
theorem test_ill_formed_refin : assemble (.crcSetup 8 7 0 0 2 0) = none := by decide
theorem test_ill_formed_refout : assemble (.crcSetup 8 7 0 0 0 2) = none := by decide
/-- R83: `bse.pbits 0x05, 3` is 0x11000305. -/
theorem test_assemble_pbits : assemble (.bsePbits 0x05 3) = some [.command 0x11000305] := by decide
/-- P3 step 4: `buf.be 9, 2, 0x31C3`. -/
theorem test_assemble_big_endian : assemble (.bufBe 9 2 0x31C3) = some [.bufWrite 9 0x31, .bufWrite 10 0xC3] := by
  decide

/-! ### Decoding: words written out from R71 to R79, one for every constructor -/

theorem test_decode_construct : decode 0b0000_0001_000000000000_000000000000 = .ok .construct := by decide
theorem test_decode_pbit : decode 0b0001_0000_000000000000_00000000000_1 = .ok (.bsePbit true) := by decide
theorem test_decode_pbits : decode 0b0001_0001_000000000000_1000_00110001 = .ok (.bsePbits 0x31 8) := by decide
theorem test_decode_pbits_cnt15 : decode 0b0001_0001_000000000000_1111_00000000 = .ok (.bsePbits 0 15) := by decide
theorem test_decode_bse_pbyte : decode 0b0001_0010_000000000000_0000_00110001 = .ok (.bsePbyte 0x31) := by decide
theorem test_decode_bse_pbytes : decode 0b0001_0011_000000000000_000000000000 = .ok .bsePbytes := by decide
theorem test_decode_bse_reset : decode 0b0001_0100_000000000000_000000000000 = .ok .bseReset := by decide
theorem test_decode_bse_resetv : decode 0b0001_0101_000000000000_000000000000 = .ok .bseResetv := by decide
theorem test_decode_bse_interim : decode 0b0001_0110_000000000000_000000000000 = .ok .bseInterim := by decide
theorem test_decode_bse_checksum : decode 0b0001_0111_000000000000_000000000000 = .ok .bseChecksum := by decide
theorem test_decode_tde_pbyte : decode 0b0010_0010_000000000000_0000_00111001 = .ok (.tdePbyte 0x39) := by decide
theorem test_decode_tde_pbytes : decode 0b0010_0011_000000000000_000000000000 = .ok .tdePbytes := by decide
theorem test_decode_tde_reset : decode 0b0010_0100_000000000000_000000000000 = .ok .tdeReset := by decide
theorem test_decode_tde_resetv : decode 0b0010_0101_000000000000_000000000000 = .ok .tdeResetv := by decide
theorem test_decode_tde_interim : decode 0b0010_0110_000000000000_000000000000 = .ok .tdeInterim := by decide
theorem test_decode_tde_checksum : decode 0b0010_0111_000000000000_000000000000 = .ok .tdeChecksum := by decide
theorem test_decode_tb_read : decode 0b0011_0000_000000000000_000_1_11111111 = .ok (.tbRead true 0xFF) := by decide
theorem test_decode_aug_calc : decode 0b0100_0000_000000000000_000000000000 = .ok .augCalc := by decide

/-- The illegal words of R81 and V32, each by its class. -/
theorem test_decode_illegal :
    decode 0x00000000 = .error .reservedOp ∧ decode 0x20000001 = .error .reservedOp ∧
    decode 0x21000831 = .error .reservedOp ∧ decode 0x12000131 = .error .operandField ∧
    decode 0x12100031 = .error .reservedField ∧ decode 0x10000002 = .error .operandField ∧
    decode 0x50000000 = .error .reservedUnit ∧ decode 0x18000000 = .error .reservedOp ∧
    decode 0x30000200 = .error .operandField ∧ decode 0x01000001 = .error .operandField ∧
    decode 0x31000000 = .error .reservedOp ∧ decode 0x41000000 = .error .reservedOp := by decide

/-- The table's own numbering of a word: 32 bits, bit 0 the least significant. -/
theorem test_decode_table_word : decodeTableWord 32 0x11000305 = some (.bsePbits 5 3) := by decide

/-! ### Primitives, at the capacities of the spec's examples -/

/-- V11. -/
theorem test_reflect :
    reflect 0x1F5#16 8 = 0xAF ∧ reflect 0x6#8 3 = 0x3 ∧ reflect 0x13#8 5 = 0x19 ∧
    reflect 0x1D0F#16 16 = 0xF0B8 ∧ reflect 0x04C11DB7#64 32 = 0xEDB88320 := by decide
/-- V10, the full-capacity case included. -/
theorem test_masks :
    highBitMask 64 64 = 0x8000000000000000 ∧ significantBitsMask 64 64 = 0xFFFFFFFFFFFFFFFF ∧
    highBitMask 8 1 = 1 ∧ significantBitsMask 64 63 = 0x7FFFFFFFFFFFFFFF := by decide
/-- R130's worked example at `REGW = 8` and R132's at `REGW = 64`. -/
theorem test_table_entries :
    tableEntry 8 0x07#8 false 0x80 = 0x89 ∧ tableEntry 8 0x07#64 false 0xFF = 0xFDF3 ∧
    tableEntry 5 0x05#8 true 0x02 = 0x1C := by decide
/-- R141's width-5 example through R143, at `REGW = 8` and at `REGW = 64`. -/
theorem test_tde_step_width_5 :
    tdeByte 5 (buildTable 5 0x05#8 false) false 0x09 0x31 = 0x84 ∧
    tdeByte 5 (buildTable 5 0x05#64 false) false 0x09 0x31 = 0x784 := by decide +kernel
/-- V13 (b): width 3 at `REGW = 8`, the first step without a division. -/
theorem test_bit_step_width_3 :
    bitStep 3 0x3#8 0x07 true = 0x06 ∧ bitStep 3 0x3#8 0x06 false = 0x0F ∧ bitStep 3 0x3#8 0x0F true = 0x16 := by
  decide

/-! ### Instructions, one step each -/

/-- R96's example: the remainders and the tables. -/
theorem test_construct :
    (try? .construct (staged 32 0x04C11DB7 0xFFFFFFFF 3)).map
      (fun t => (t.tdeRem, t.tdeTable[1] &&& t.sig, t.augTable[1] &&& t.sig)) =
      some (0xFFFFFFFF, 0x77073096, 0x04C11DB7) := by decide +kernel
/-- V12: (16, 0x1021, 0x1D0F, .., 1): the Table-Driven Engine's remainder is reflected, the other is not. -/
theorem test_construct_reflects_one :
    (try? .construct (staged 16 0x1021 0x1D0F 1)).map (fun t => (t.bseRem, t.tdeRem)) =
      some (0x1D0F, 0xF0B8) := by decide +kernel
/-- V13 (a), raw at `REGW = 64`: 0x107 then 0x309. -/
theorem test_pbit : (try? (.bsePbit true) { crc8 with bseRem := 0x107 }).map (·.bseRem) = some 0x309 := by
  decide
/-- V14: 0x110003FD gives 0x1B. -/
theorem test_pbits : (try? (.bsePbits 0xFD 3) crc8).map (·.bseRem &&& 0xFF) = some 0x1B := by decide
/-- V14: 0x11000931 is `ERR(5)`, `STATUS = 0x00000052`. -/
theorem test_pbits_fault :
    (try? (.bsePbits 0x31 9) crc8).map (fun t => (t.statusWord, t.faultCw, t.answers)) =
      some (0x52, 0x11000931, [.err .bitCount]) := by decide
/-- V30: the byte 0x31 then 0x32, raw at `REGW = 64`. -/
theorem test_bse_pbyte : (try? (.bsePbyte 0x32) { crc8 with bseRem := 0x3197 }).map (·.bseRem) =
    some 0x31A672 := by decide
/-- V15: `P_REFIN = 1` gives 0xAD. -/
theorem test_bse_pbyte_reflected :
    (try? (.bsePbyte 0x31) { crc8 with pRefin := true }).map (·.bseRem &&& 0xFF) = some 0xAD := by decide
/-- V1: masked remainder 0x72 after the bytes 0x31, 0x32. -/
theorem test_bse_pbytes : (try? .bsePbytes (holding crc8 [0x31, 0x32])).map (·.bseRem) =
    some 0x31A672 := by decide +kernel
/-- R115: CRC-32 parameters. -/
theorem test_bse_reset : (try? .bseReset { crc32 with bseRem := 0 }).map (·.bseRem) = some 0xFFFFFFFF := by
  decide
/-- R116: no reflection, whatever `P_REFIN` is. -/
theorem test_bse_resetv : (try? .bseResetv { mixed with argA := 0x1D0F, bseRem := 0 }).map (·.bseRem) =
    some 0x1D0F := by decide
/-- V30: raw remainder, masked response 0xF4. -/
theorem test_bse_interim : (try? .bseInterim { crc8 with bseRem := 0x40F6F5FFC841FCF4 }).map (·.answers) =
    some [.val 0xF4] := by decide
/-- R118: 0x9B63D02C becomes 0xCBF43926. -/
theorem test_bse_checksum : (try? .bseChecksum { crc32 with bseRem := 0xA9971A949B63D02C }).map (·.result) =
    some 0xCBF43926 := by decide
/-- V21: CRC-32, first byte. -/
theorem test_tde_pbyte : (try? (.tdePbyte 0x31) crc32).map (·.tdeRem) = some 0x7C231048 := by decide +kernel
/-- V30: two bytes, raw at `REGW = 64`; it is not the Bit-Serial Engine's raw value. -/
theorem test_tde_pbytes : (try? .tdePbytes (holding crc8 [0x31, 0x32])).map (·.tdeRem) =
    some 0x313172 := by decide +kernel
/-- R145. -/
theorem test_tde_reset : (try? .tdeReset { mixed with tdeRem := 0 }).map (·.tdeRem) = some 0xF0B8 := by decide
/-- R146. -/
theorem test_tde_resetv : (try? .tdeResetv { mixed with argA := 0x1D0F, tdeRem := 0 }).map (·.tdeRem) =
    some 0xF0B8 := by decide
/-- V23: `TDE_REM = 0x07B8` is the natural 0x1DE0. -/
theorem test_tde_interim : (try? .tdeInterim { mixed with tdeRem := 0x07B8 }).map (·.result) =
    some 0x1DE0 := by decide
/-- R148: flags 1, 0 from 0xD1A2. -/
theorem test_tde_checksum : (try? .tdeChecksum { mixed with tdeRem := 0xD1A2 }).map (·.result) =
    some 0x458A := by decide
/-- V20, both tables. -/
theorem test_tb_read :
    (try? (.tbRead false 0xFF) crc32).map (·.result) = some 0x2D02EF8D ∧
    (try? (.tbRead true 0xFF) crc32).map (·.result) = some 0xB1F740B4 := by decide +kernel
/-- V25, width 8: 0x31 then 0x32 give 0xA5. -/
theorem test_aug_calc : (try? .augCalc (holding crc8 [0x31, 0x32])).map (·.result) = some 0xA5 := by
  decide +kernel
/-- V29: a width that is no multiple of 8 is `ERR(7)` even where the range is out of bounds. -/
theorem test_aug_width :
    (try? .augCalc { (configured 12 0x80F 0 0 false false : Block suggestedParams) with argSize := 0xFFFFFFFF }).map (·.statusWord) =
      some 0x72 := by decide
/-- V29: `0xFFFFFFFF + 2` is `ERR(6)`, no wrap-around. -/
theorem test_range_does_not_wrap :
    (try? .tdePbytes { crc8 with argOff := 0xFFFFFFFF, argSize := 2 }).map (·.statusWord) = some 0x62 := by
  decide

/-! ### Other parameters -/

/-- R111's example at `REGW = 8`: 0x07, then 0x09. -/
theorem test_pbit_small :
    (try? (.bsePbit true) (configured 8 0x07 0 0 false false : Block small)).map (·.bseRem) = some 0x07 ∧
    (try? (.bsePbit true) { (configured 8 0x07 0 0 false false : Block small) with bseRem := 0x07 }).map
      (·.bseRem) = some 0x09 := by decide
/-- P2 step 13 at `REGW = 16`: the byte 0x33 takes 0x20B5 to 0x9752. -/
theorem test_bse_pbyte_medium :
    (try? (.bsePbyte 0x33) { (configured 16 0x1021 0 0 false false : Block medium) with bseRem := 0x20B5 }).map
      (·.bseRem) = some 0x9752 := by decide
/-- R143's example at `REGW = 16`: 0x2672 with the byte 0x32 gives 0x20B5. -/
theorem test_tde_pbyte_medium :
    (try? (.tdePbyte 0x32) { (configured 16 0x1021 0 0 false false : Block medium) with tdeRem := 0x2672 }).map
      (·.tdeRem) = some 0x20B5 := by decide +kernel
/-- R96, R24: a width of 9 is more than `REGW = 8` holds, `ERR(3)`. -/
theorem test_width_above_small :
    (try? .construct { (Block.reset : Block small) with cfgWidth := 9 }).map (·.statusWord) = some 0x32 := by decide
/-- R58: the range [10, 17) leaves a buffer of 16 bytes, `ERR(6)`. -/
theorem test_range_small :
    (try? .bsePbytes { (configured 8 0x07 0 0 false false : Block small) with argOff := 10, argSize := 7 }).map
      (·.statusWord) = some 0x62 := by decide

/-! ### The step of an event -/

/-- V33: after reset, 0x12000031 responds `ERR(2)`, `STATUS = 0x00000022`. -/
theorem test_first_command :
    (next? suggestedParams (step (State.reset.withFetchWord 32 0x12000031))).map (fun t => (t.statusWord, t.faultCw)) =
      some (0x22, 0x12000031) := by decide
/-- V33: after reset, 0x21000831 responds `ERR(1)`. -/
theorem test_illegal_beats_unconfigured :
    (next? suggestedParams (step (State.reset.withFetchWord 32 0x21000831))).map (·.answers) = some [.err .illegal] := by decide
/-- V34: in `FAULTED` every word responds `ERR(8)`. -/
theorem test_faulted_answers_eight :
    (next? suggestedParams (step (State.withFetchWord ⟨_, broken⟩ 32 0x00000000))).map (fun t => (t.answers, t.statusWord)) =
      some ([.err .faulted, .err .bitCount], 0x52) := by decide
/-- V12: 0xFFFFFFFF written to `CFG_CTRL` reads back 0x00000003. -/
theorem test_ctrl_reads_back :
    (step? { fresh with cfgCtrl := 3 } [.regRead 4]).map (·.answers) = some [.reg 3] ∧
    (step? fresh [.regWrite 4 0xFFFFFFFF]).map (·.cfgCtrl) = some 3 := by decide
/-- R54's example: 0x31 at 9, 0xC3 at 10. -/
theorem test_buf_write :
    (step? { fresh with buf := [(10, 0xC3)] } [.bufWrite 9 0x31]).map (·.buf) =
      some [(9, 0x31), (10, 0xC3)] := by decide
/-- R210: reset is the exit from `FAULTED`. -/
theorem test_reset_event : (step? broken [.reset]).map (·.statusWord) = some 0 := by decide

/-! ### Witnesses: the hypotheses of each statement, met together -/

theorem crc8_ready : crc8.mode = .ready := rfl
theorem mixed_ready : mixed.mode = .ready := rfl

theorem crc8_inv_ready : crc8.ReadyInv :=
  ⟨by decide, by decide, by decide, by decide, rfl, rfl, by decide⟩

theorem mixed_inv_ready : mixed.ReadyInv :=
  ⟨by decide, by decide, by decide, by decide, rfl, rfl, fun _ => by decide⟩

theorem crc8_inv : crc8.Inv :=
  ⟨by decide, by decide, fun _ => crc8_inv_ready, fun _ => ⟨rfl, rfl⟩, by decide, by decide, by decide, by decide⟩

/-- The operand range at the top of the buffer, its last byte at `BUFSZ - 1`. -/
theorem holding_range (b : Block suggestedParams) (v : Byte) : (holding b [v, 0]).RangeHolds [v, 0] := by
  refine ⟨rfl, by simp [holding, suggestedParams], ?_⟩
  intro k hk
  match k, hk with
  | 0, _ => rfl
  | 1, _ => rfl

theorem witness_EncodeOfDecode : decode 0x110003FD = .ok (.bsePbits 0xFD 3) := by decide
theorem witness_StepRunsTheDecodedCommand :
    (facing crc8 [.command 0x10000001]).pending = .command 0x10000001 :: [] ∧
    decode 0x10000001 = .ok (.bsePbit true) ∧ crc8.pending = [] := by decide
theorem witness_OrderOfChecks :
    broken.mode = .faulted ∧ (decode 0x00000000 = .error .reservedOp ∧ fresh.mode ≠ .faulted) ∧
    (decode 0x11000931 = .ok (.bsePbits 0x31 9) ∧ fresh.mode = .unconfigured) ∧
    (decode 0x01000000 = .ok .construct ∧ fresh.mode = .unconfigured) ∧
    (decode 0x16000000 = .ok .bseInterim ∧ crc8.mode = .ready) := by decide
theorem witness_FaultedUntilReset :
    broken.mode = .faulted ∧ (step? broken [.regWrite 0 8]).isSome = true ∧
    (step? broken [.command 0x01000000]).isSome = true := by decide
theorem witness_CommandAnswersOnce :
    (step? crc8 [.command 0x14000000]).map (·.answers) = some [.ok] ∧
    (step? crc8 [.command 0x16000000]).map (·.answers) = some [.val 0] ∧
    (step? crc8 [.command 0x00000000]).map (·.answers) = some [.err .illegal] := by decide
theorem witness_FaultsArePrecise :
    (step? broken [.command 0x16000000]).map (·.answers) =
      some (.err .faulted :: broken.answers) ∧
    (step? crc8 [.command 0x11000931]).map (·.answers) =
      some (.err .bitCount :: crc8.answers) := by decide
theorem witness_ModeTransitionsComplete :
    (step? crc8 []).isSome = true ∧ (step? crc8 [.reset]).isSome = true ∧
    (step? broken [.command 0]).isSome = true ∧
    (step? (staged 8 7 0 0) [.command 0x01000000]).map (·.mode) = some .ready ∧
    (step? fresh [.command 0x01000000]).map (·.mode) = some .faulted ∧
    (step? crc8 [.command 0x11000931]).map (·.mode) = some .faulted ∧
    (step? crc8 [.command 0x11000831]).map (·.mode) = some .ready ∧
    (step? crc8 [.bufRead 0]).isSome = true := by decide +kernel
theorem witness_ResetValues : (facing broken [.reset]).pending = .reset :: [] := rfl
theorem witness_StepKeepsTheInvariant :
    (facing crc8 [.command 0x12000031]).Inv ∧
    (step? crc8 [.command 0x12000031]).map (·.answers) = some [.ok] :=
  ⟨⟨crc8_inv.buf_wf, crc8_inv.buf_lt,
    fun _ => ⟨crc8_inv_ready.width_pos, crc8_inv_ready.width_le, crc8_inv_ready.poly_lt, crc8_inv_ready.init_lt,
      crc8_inv_ready.tde_table, crc8_inv_ready.aug_table, crc8_inv_ready.tde_rem⟩,
    crc8_inv.no_fault, crc8_inv.fault_code, crc8_inv.unconfigured, crc8_inv.result_last, crc8_inv.error_iff⟩,
    by decide⟩
theorem witness_RegisterAccess :
    ((0x00, 0) ∈ registerValues fresh ∧ (0x0A, 0x11000931) ∈ registerValues broken ∧
      (0x09, 0x68) ∈ registerValues { crc8 with result := 0x68, rvalid := true }) ∧
    ((0x04, 32, { fresh with cfgCtrl := 3 }) ∈ registerWrites fresh 0xFFFFFFFF ∧
      0xFFFFFFFF < 2 ^ 32 ∧ (0x08, 32, fresh) ∈ registerWrites fresh 1 ∧
      (0x05, 64, { fresh with argA := 0xFFFFFFFFFFFFFFFF }) ∈
        registerWrites fresh 0xFFFFFFFFFFFFFFFF ∧ 0xFFFFFFFFFFFFFFFF < 2 ^ suggestedParams.regw) := by decide +kernel
theorem witness_BufferAccess :
    ((facing broken [.bufWrite 4095 255]).pending = .bufWrite 4095 255 :: [] ∧ 4095 < suggestedParams.bufsz ∧
      255 < 256) ∧
    (facing { broken with buf := [(4095, 0xFF)] } [.bufRead 4095]).pending = .bufRead 4095 :: [] ∧
    (facing { broken with buf := [(4095, 0xFF)] } [.bufRead 4095]).buf.read 4095 = some 0xFF := by decide
theorem witness_UnspecifiedReadsAnswerSomething :
    ((facing fresh [.regRead 0x09]).pending = .regRead 0x09 :: [] ∧
      (facing fresh [.regRead 0x09]).rvalid = false) ∧
    (facing fresh [.bufRead 4095]).pending = .bufRead 4095 :: [] ∧ 4095 < suggestedParams.bufsz ∧
    (facing fresh [.bufRead 4095]).buf.read 4095 = none := by decide
theorem witness_NothingBeyondTheInterface :
    (facing crc8 [.regRead 0x0B]).pending = .regRead 0x0B :: [] ∧
    (facing crc8 [.regWrite 0x0B 7]).pending = .regWrite 0x0B 7 :: [] ∧ 0x0A < 0x0B ∧
    (facing crc8 [.bufRead 4096]).pending = .bufRead 4096 :: [] ∧
    (facing crc8 [.bufWrite 4096 7]).pending = .bufWrite 4096 7 :: [] ∧ suggestedParams.bufsz ≤ 4096 ∧
    ((facing crc8 [.bufWrite 4095 256]).pending = .bufWrite 4095 256 :: [] ∧ 4095 < suggestedParams.bufsz ∧
      256 ≤ 256) ∧
    (facing crc8 [.regWrite 0 0x100000000]).pending = .regWrite 0 0x100000000 :: [] ∧
    (0, 32, { crc8 with cfgWidth := 0 }) ∈ registerWrites crc8 0x100000000 ∧ 2 ^ 32 ≤ 0x100000000 := by
  decide +kernel
theorem witness_HostTransactionsLeaveTheEngines :
    inInterface suggestedParams (.regRead 0x0A) = true ∧ inInterface suggestedParams (.regWrite 0x00 0xFFFFFFFF) = true ∧
    inInterface suggestedParams (.bufRead 4095) = true ∧ inInterface suggestedParams (.bufWrite 4095 255) = true ∧
    (facing broken [.bufWrite 4095 255]).pending = .bufWrite 4095 255 :: [] ∧
    HostEvent.bufWrite 4095 255 ≠ .reset ∧ ∀ cw, HostEvent.bufWrite 4095 255 ≠ .command cw := by
  refine ⟨by decide, by decide, by decide, by decide, rfl, by decide, fun cw h => HostEvent.noConfusion h⟩
/-- A range command that reads its bytes, and one that reads nothing of an unwritten range. -/
theorem witness_EveryDutifulEventIsAnswered :
    ((holding crc8 [0x31, 0x00]).readsRange .bsePbytes = true ∧
      (holding crc8 [0x31, 0x00]).Dutiful (.command 0x13000000)) ∧
    ({ broken with argSize := 1 } : Block suggestedParams).Dutiful (.command 0x13000000) := by
  refine ⟨⟨by decide, by decide, fun _ _ _ _ _ addr h1 h2 => ?_⟩, by decide, fun cw i h hd hr => ?_⟩
  · have h3 : addr = 4094 ∨ addr = 4095 := by simp [holding, suggestedParams] at h1 h2; omega
    obtain rfl | rfl := h3 <;> decide
  · cases h
    have e : i = .bsePbytes := by
      have e : decode 0x13000000 = .ok .bsePbytes := by decide
      rw [e] at hd
      exact (Except.ok.inj hd).symm
    subst e
    exact absurd hr (by decide)
theorem witness_ConstructLatchesOrFaults_latches :
    (let s := staged 64 0xFFFFFFFFFFFFFFFF 0xFFFFFFFFFFFFFFFF 3
     s.mode ≠ .faulted ∧ 1 ≤ s.cfgWidth.toNat ∧ s.cfgWidth.toNat ≤ suggestedParams.regw ∧
      s.cfgPoly.toNat < 2 ^ s.cfgWidth.toNat ∧ s.cfgInit.toNat < 2 ^ s.cfgWidth.toNat) ∧
    (let s := staged 1 1 1 0
     s.mode ≠ .faulted ∧ 1 ≤ s.cfgWidth.toNat ∧ s.cfgWidth.toNat ≤ suggestedParams.regw ∧
      s.cfgPoly.toNat < 2 ^ s.cfgWidth.toNat ∧ s.cfgInit.toNat < 2 ^ s.cfgWidth.toNat) := by decide
theorem witness_ConstructLatchesOrFaults_faults :
    (staged 0 0x107 0 0).cfgWidth.toNat = 0 ∧ suggestedParams.regw < (staged 65 0 0 0).cfgWidth.toNat ∧
    (let s := staged 8 0x100 0 0
     1 ≤ s.cfgWidth.toNat ∧ s.cfgWidth.toNat ≤ suggestedParams.regw ∧ 2 ^ s.cfgWidth.toNat ≤ s.cfgPoly.toNat) ∧
    (let s := staged 8 0x07 0x100 0
     1 ≤ s.cfgWidth.toNat ∧ s.cfgWidth.toNat ≤ suggestedParams.regw ∧ 2 ^ s.cfgWidth.toNat ≤ s.cfgInit.toNat) := by decide
theorem witness_TableHoldsPartialRemainders :
    (8 ≤ 8 ∧ 1 ≤ 1 ∧ 1 ≤ 8 ∧ (1#8).toNat < 2 ^ 1) ∧ (8 ≤ 64 ∧ 1 ≤ 64 ∧ 64 ≤ 64 ∧ (0x1B#64).toNat < 2 ^ 64) := by decide
theorem witness_TableIdentities :
    (8 ≤ 8 ∧ 1 ≤ 8 ∧ 8 ≤ 8 ∧ (0x07#8).toNat < 2 ^ 8) ∧ crc8.mode = .ready ∧ crc8.pRefin = false ∧ crc8.argA = 0 := by
  decide
theorem witness_ZeroPolynomialTable : 8 ≤ 64 ∧ 1 ≤ 8 ∧ 8 ≤ 64 := by decide
theorem witness_ReflectProperties : (1 ≤ 64 ∧ 64 ≤ 64 ∧ 63 < 64) ∧ 1 ≤ 1 ∧ 1 ≤ 8 ∧ 0 < 1 := by decide
theorem witness_MaskValues : (1 ≤ 64 ∧ 64 ≤ 64) ∧ 1 ≤ 1 ∧ 1 ≤ 8 := by decide
/-- For the statements whose only hypothesis is `MODE = READY`. -/
theorem witness_ready_only : crc8.mode = .ready ∧ mixed.mode = .ready ∧ crc32.mode = .ready := by decide
theorem witness_BsePbitsFeedsTheLowBits :
    crc8.mode = .ready ∧ (0#4).toNat ≤ 8 ∧ (8#4).toNat ≤ 8 ∧ 8 < (9#4).toNat ∧ 8 < (15#4).toNat := by decide
theorem witness_RangeStatements :
    (holding crc8 [0x31, 0x00]).mode = .ready ∧ (holding crc8 [0x31, 0x00]).RangeHolds [0x31, 0x00] ∧
    suggestedParams.bufsz < ({ crc8 with argOff := 4095, argSize := 2 } : Block suggestedParams).argOff.toNat +
      ({ crc8 with argOff := 4095, argSize := 2 } : Block suggestedParams).argSize.toNat :=
  ⟨rfl, holding_range crc8 0x31, by decide⟩
theorem witness_EnginesAgree :
    (crc8.mode = .ready ∧ crc8.ReadyInv ∧ crc8.EnginesAgree) ∧
    mixed.mode = .ready ∧ mixed.ReadyInv ∧ mixed.EnginesAgree :=
  ⟨⟨rfl, crc8_inv_ready, by simp only [Block.EnginesAgree]; decide⟩, rfl, mixed_inv_ready,
    by simp only [Block.EnginesAgree]; decide⟩
theorem witness_EnginesAgreeFromEachStart :
    (staged 16 0x1021 0x1D0F 1).mode ≠ .faulted ∧
    (try? .construct (staged 16 0x1021 0x1D0F 1)).map (·.mode) = some .ready := by decide +kernel
theorem witness_EngineEquivalence :
    (let s := staged 16 0x1021 0x1D0F 1
     s.mode ≠ .faulted ∧ 1 ≤ s.cfgWidth.toNat ∧ s.cfgWidth.toNat ≤ suggestedParams.regw ∧
      s.cfgPoly.toNat < 2 ^ s.cfgWidth.toNat ∧ s.cfgInit.toNat < 2 ^ s.cfgWidth.toNat) := by decide
theorem witness_SuspendAndResume : mixed.mode = .ready ∧ mixed.ReadyInv := ⟨rfl, mixed_inv_ready⟩
theorem witness_AugCalcComputes :
    (holding crc8 [0x31, 0x00]).width % 8 = 0 ∧ (holding crc8 [0x31, 0x00]).RangeHolds [0x31, 0x00] ∧
    (configured 12 0x80F 0 0 false false : Block suggestedParams).width % 8 ≠ 0 ∧
    suggestedParams.bufsz < ({ crc8 with argOff := 4096, argSize := 1 } : Block suggestedParams).argOff.toNat +
      ({ crc8 with argOff := 4096, argSize := 1 } : Block suggestedParams).argSize.toNat :=
  ⟨by decide, holding_range crc8 0x31, by decide, by decide⟩

/-- `ReadyInv` says nothing of the buffer and the operands, so `holding` keeps it. -/
theorem holding_inv_ready (bytes : List Byte) : (holding crc8 bytes).ReadyInv :=
  ⟨crc8_inv_ready.width_pos, crc8_inv_ready.width_le, crc8_inv_ready.poly_lt, crc8_inv_ready.init_lt,
    crc8_inv_ready.tde_table, crc8_inv_ready.aug_table, crc8_inv_ready.tde_rem⟩

/-- For `MaskingCadenceIsInvisible`, `AugSegmentsCompose` (segments [0x31] and [0x00]), `EmbeddedChecksumVerifies`
and `AugmentedMatchesBitSerial` (message [0x31], one zero byte). -/
theorem witness_AugmentedStatements :
    (let s := holding crc8 [0x31, 0x00]
     s.mode = .ready ∧ s.ReadyInv ∧ s.width % 8 = 0 ∧ s.argA = 0 ∧ s.pRefin = false ∧
      s.RangeHolds ([0x31] ++ [0x00]) ∧ s.RangeHolds ([0x31] ++ List.replicate (s.width / 8) 0)) :=
  ⟨rfl, holding_inv_ready _, by decide, rfl, rfl, holding_range crc8 0x31, holding_range crc8 0x31⟩
theorem witness_SingleBitFlipIsDetected :
    (let s := holding crc8 [0, 0]
     s.mode = .ready ∧ s.ReadyInv ∧ s.width % 8 = 0 ∧ s.pPoly ≠ 0 ∧ s.argA = 0 ∧ s.RangeHolds [0, 0] ∧
      (try? .augCalc s).map (·.result) = some 0) ∧ 1 < [(0 : Byte), 0].length ∧ 7 < 8 :=
  ⟨⟨rfl, holding_inv_ready _, by decide, by decide, rfl, holding_range crc8 0, by decide +kernel⟩, by decide, by decide⟩
theorem witness_AugCalcReadsOnlyItsOwn : (try? .augCalc crc8).isSome = true := by decide
theorem witness_UnwrittenByteIsRefused :
    (let s : Block suggestedParams := { crc8 with buf := [(4094, 0x31)], argOff := 4094, argSize := 2 }
     s.mode = .ready ∧ s.argOff.toNat + s.argSize.toNat ≤ suggestedParams.bufsz ∧ s.argOff.toNat ≤ 4095 ∧
      4095 < s.argOff.toNat + s.argSize.toNat ∧ s.buf.read 4095 = none ∧ s.buf.read 4094 ≠ none ∧
      s.width % 8 = 0) := by decide
theorem witness_CommandFrame : (try? .tdeReset crc8).isSome = true := by decide
theorem witness_ResponsesFitTheWidth :
    crc8.width ≤ suggestedParams.regw ∧ (try? .bseInterim { crc8 with bseRem := 0x1FF }).map (·.answers) =
      some (.val 0xFF :: crc8.answers) := by decide
theorem witness_StagedParametersAreInert :
    Instr.bseChecksum ≠ .construct ∧ (try? .bseChecksum crc8).isSome = true := by decide
theorem witness_ResponsesDoNotDependOnCapacity :
    8 ≤ 8 ∧ 8 ≤ 64 ∧ 1 ≤ 8 ∧ 8 ≤ 8 ∧ 8 ≤ 64 ∧ 0x07 < 2 ^ 8 ∧ 8 % 8 = 0 := by decide
theorem witness_CrcSetupConfigures :
    fresh.mode ≠ .faulted ∧ fresh.pending = [] ∧ 1 ≤ 64 ∧ 64 ≤ suggestedParams.regw ∧ 64 < 2 ^ 32 ∧
    0xFFFFFFFFFFFFFFFF < 2 ^ 64 ∧ 0xFFFFFFFFFFFFFFFF < 2 ^ suggestedParams.regw ∧ 1 < 2 := by decide


/-- CRC-8 parameters at `REGW = 8` and at `REGW = 64` after the byte 0x31: the raw remainders 0x97 and 0x3197 differ,
and `bse.interim` faces both. -/
def narrow : Block ⟨8, 4096, by decide, by decide, by decide⟩ :=
  { configured 8 0x07 0 0 false false with bseRem := 0x97, pending := [.command 0x16000000] }
def wide : Block suggestedParams := { crc8 with bseRem := 0x3197, pending := [.command 0x16000000] }
theorem witness_AlikeBlocksStayAlike :
    (narrow.mode = .ready ∧ narrow.ReadyInv ∧ wide.ReadyInv) ∧ Alike narrow wide ∧
    inInterface suggestedParams (.command 0x16000000) = true ∧ HostEvent.command 0x16000000 ≠ .regRead 0x09 ∧
    (∀ addr, HostEvent.command 0x16000000 ≠ .bufRead addr) ∧ decode 0x16000000 ≠ .ok .construct ∧
    (step? narrow [.command 0x16000000]).map (·.answers) = some [.val 0x97] ∧
    (step? wide [.command 0x16000000]).map (·.answers) = some [.val 0x97] := by
  refine ⟨⟨rfl, ⟨by decide, by decide, by decide, by decide, rfl, rfl, by decide⟩,
    ⟨by decide, by decide, by decide, by decide, rfl, rfl, by decide⟩⟩, ?_, by decide, by decide,
    fun _ h => HostEvent.noConfusion h, by decide, by decide, by decide⟩
  have table : ∀ k : Fin 256, (readEntry narrow.tdeTable (BitVec.ofFin k)).toNat % 2 ^ 8 =
      (readEntry wide.tdeTable (BitVec.ofFin k)).toNat % 2 ^ 8 := by decide +kernel
  exact ⟨rfl, rfl, rfl, rfl, rfl, rfl, rfl, rfl, rfl, rfl, rfl, rfl, rfl, fun _ => rfl, rfl, rfl, rfl, fun _ =>
    ⟨rfl, rfl, rfl, rfl, rfl, rfl, rfl, rfl, fun i => table i.toFin, fun i => table i.toFin⟩⟩

end Sys2Proof.Tests
end

/-! ## The host port (10_state.md R34, R38, R39; 20_memory.md R53) -/

namespace Sys2Proof.Proofs

open Sys2Proof Sys2Proof.Machine Sys2Proof.Claims

section HostPort

variable {p : Params}

/-- The map of R34 stops at 0x0A. -/
theorem regAt_eq_none {i : Nat} (h : 0x0A < i) : regAt i = none := by
  unfold regAt
  split
  case h_12 => rfl
  all_goals omega

/-- `RESULT` is at index 0x09 only. -/
theorem regAt_eq_result {i : Nat} (h : regAt i = some .result) : i = 0x09 := by
  unfold regAt at h
  split at h
  case h_10 => rfl
  all_goals cases h

/-- Every fault code is at most 8 (R181). -/
theorem codeBits_le (b : Block p) : b.codeBits ≤ 8 := by
  unfold Block.codeBits
  cases b.code with
  | none => exact Nat.zero_le 8
  | some c => cases c <;> decide

/-- `MODE` takes two bits (R31). -/
theorem modeBits_le (m : Mode) : m.bits ≤ 2 := by cases m <;> decide

/-- The number R31 lays out, in the model's names for its fields. -/
theorem statusValue_eq (b : Block p) :
    statusValue b = b.mode.bits + (if b.rvalid then 4 else 0) + 16 * b.codeBits := by
  unfold statusValue Block.codeBits
  cases b.mode <;> cases b.code with
  | none => rfl
  | some c => cases c <;> rfl

/-- The model's `STATUS` word is the number R31 lays out: it fits 32 bits. -/
theorem statusWord_toNat (b : Block p) : b.statusWord.toNat = statusValue b := by
  have hc := codeBits_le b
  have hm := modeBits_le b.mode
  have hr : (if b.rvalid then 4 else 0) ≤ 4 := by split <;> omega
  rw [statusValue_eq, Block.statusWord, BitVec.toNat_ofNat, Nat.mod_eq_of_lt (by omega)]

/-- The eleven registers as the spec lists them are the registers the model reads. -/
theorem exists_readReg_of_mem {b : Block p} {i v : Nat} (h : (i, v) ∈ registerValues b) :
    ∃ r, regAt i = some r ∧ v = b.readReg r := by
  simp only [registerValues, ← statusWord_toNat, List.mem_cons, List.not_mem_nil, or_false, Prod.mk.injEq] at h
  rcases h with ⟨rfl, rfl⟩ | ⟨rfl, rfl⟩ | ⟨rfl, rfl⟩ | ⟨rfl, rfl⟩ | ⟨rfl, rfl⟩ | ⟨rfl, rfl⟩ | ⟨rfl, rfl⟩ |
    ⟨rfl, rfl⟩ | ⟨rfl, rfl⟩ | ⟨rfl, rfl⟩ | ⟨rfl, rfl⟩ <;> exact ⟨_, rfl, rfl⟩

/-- `CFG_CTRL` stores bits 1..0 of the value (R28). -/
theorem ofNat_two_mod (v : Nat) : BitVec.ofNat 2 (v % 4) = BitVec.ofNat 2 v :=
  BitVec.eq_of_toNat_eq (by simp)

/-- The eleven writes as the spec lists them are the writes the model makes, at the model's register widths. -/
theorem exists_writeReg_of_mem {b c : Block p} {i n v : Nat} (h : (i, n, c) ∈ registerWrites b v) :
    ∃ r, regAt i = some r ∧ n = regWidth p r ∧ c = b.writeReg v r := by
  simp only [registerWrites, ofNat_two_mod, List.mem_cons, List.not_mem_nil, or_false, Prod.mk.injEq] at h
  rcases h with ⟨rfl, rfl, rfl⟩ | ⟨rfl, rfl, rfl⟩ | ⟨rfl, rfl, rfl⟩ | ⟨rfl, rfl, rfl⟩ | ⟨rfl, rfl, rfl⟩ |
    ⟨rfl, rfl, rfl⟩ | ⟨rfl, rfl, rfl⟩ | ⟨rfl, rfl, rfl⟩ | ⟨rfl, rfl, rfl⟩ | ⟨rfl, rfl, rfl⟩ | ⟨rfl, rfl, rfl⟩ <;>
    exact ⟨_, rfl, rfl, rfl⟩

/-- A read of a register with a value answers it. -/
theorem regRead_value {b : Block p} {i : Nat} {r : RegName} (hi : regAt i = some r)
    (hr : r = .result → b.rvalid = true) : regRead i b = .next ⟨p, b.answer (.reg (b.readReg r))⟩ := by
  have : ¬ (r = .result ∧ b.rvalid = false) := fun ⟨h, hf⟩ => by simp [hr h] at hf
  simp [regRead, hi, this]

/-- A read of `RESULT` while `RVALID = 0` answers a free value (R32, U9). -/
theorem regRead_result_free {b : Block p} (h : b.rvalid = false) :
    regRead 0x09 b = .next ⟨p, b.tick.answer (.reg (Config.freeWord p.regw b.freeCount).toNat)⟩ := by
  simp [regRead, regAt, h]

/-- A write of a value that fits has the register's effect. -/
theorem regWrite_fits {b : Block p} {i v : Nat} {r : RegName} (hi : regAt i = some r) (hv : v < 2 ^ regWidth p r) :
    regWrite i v b = .next ⟨p, b.writeReg v r⟩ := by
  simp [regWrite, hi, hv]

/-- A write of a value wider than the register is refused (R34). -/
theorem regWrite_wide {b : Block p} {i v : Nat} {r : RegName} (hi : regAt i = some r) (hv : 2 ^ regWidth p r ≤ v) :
    regWrite i v b = .refused (.valueTooWide i v) := by
  simp [regWrite, hi, Nat.not_lt.2 hv]

/-- A read of a written byte answers it (R53). -/
theorem bufRead_written {b : Block p} {addr : Nat} {v : Byte} (ha : addr < p.bufsz) (hv : b.buf.read addr = some v) :
    bufRead addr b = .next ⟨p, b.answer (.byte v)⟩ := by
  simp [bufRead, ha, hv]

/-- A read of an unwritten byte answers a free value (R53, U9). -/
theorem bufRead_unwritten {b : Block p} {addr : Nat} (ha : addr < p.bufsz) (hv : b.buf.read addr = none) :
    bufRead addr b = .next ⟨p, b.tick.answer (.byte (Config.freeByte b.freeCount))⟩ := by
  simp [bufRead, ha, hv]

/-- A write inside the buffer of a byte value has its effect (R53). -/
theorem bufWrite_fits {b : Block p} {addr v : Nat} (ha : addr < p.bufsz) (hv : v < 256) :
    bufWrite addr v b = .next ⟨p, { b with buf := b.buf.write addr (BitVec.ofNat 8 v) }⟩ := by
  simp [bufWrite, ha, hv]

end HostPort

/-- Settles O13: the reset event replaces the block by `Block.reset` and keeps the host's list. -/
theorem resetValues : Obligations.ResetValues := by
  intro p b rest h
  rw [step_event h]
  exact ⟨_, rfl, rfl, rfl, rfl, rfl, rfl, rfl, rfl, rfl, rfl, rfl, rfl, rfl, rfl, rfl, reset_buf_read p⟩

/-- Right after reset the block meets the invariant: the buffer and the answers are empty, no fault and no value is
recorded, and the mode is UNCONFIGURED. -/
theorem reset_inv (p : Params) : (Block.reset : Block p).Inv where
  buf_wf := reset_buf_wf p
  buf_lt := by simp [Block.reset]
  ready := by simp [Block.reset]
  no_fault := by simp [Block.reset]
  fault_code := by simp [Block.reset]
  unconfigured := by simp [Block.reset]
  result_last := by simp [Block.reset]
  error_iff := by simp [Block.reset, someError]

/-- Settles O14: `State.reset` is `Block.reset` at the suggested parameters. -/
theorem resetMeetsTheInvariant : Obligations.ResetMeetsTheInvariant :=
  ⟨reset_inv, reset_inv suggestedParams⟩

/-- Settles O16: each listed register is one the model reads and writes by name. -/
theorem registerAccess : Obligations.RegisterAccess := by
  constructor
  · intro p b rest i v hp hv hres
    obtain ⟨r, hi, rfl⟩ := exists_readReg_of_mem hv
    rw [step_event hp]
    exact regRead_value hi fun hr => hres (regAt_eq_result (hr ▸ hi))
  · intro p b c rest i v n hp hc hv
    obtain ⟨r, hi, rfl, rfl⟩ := exists_writeReg_of_mem hc
    rw [step_event hp]
    exact regWrite_fits hi hv

/-- Settles O18: the value is the free value at the block's count. -/
theorem unspecifiedReadsAnswerSomething : Obligations.UnspecifiedReadsAnswerSomething := by
  constructor
  · intro p b rest hp hr
    refine ⟨(Config.freeWord p.regw b.freeCount).toNat, BitVec.isLt _, ?_⟩
    rw [step_event hp]
    exact regRead_result_free hr
  · intro p b rest addr hp ha hb
    refine ⟨Config.freeByte b.freeCount, ?_⟩
    rw [step_event hp]
    exact bufRead_unwritten ha hb

/-- Settles O19: no register stands above 0x0A, and each transaction checks its operands before it has an effect. -/
theorem nothingBeyondTheInterface : Obligations.NothingBeyondTheInterface := by
  intro p b rest n v
  refine ⟨?_, ?_, ?_, ?_⟩
  · rintro (hp | hp) hn
    · simp [step_event hp, perform, regRead, regAt_eq_none hn]
    · simp [step_event hp, perform, regWrite, regAt_eq_none hn]
  · rintro (hp | hp) hn
    · simp [step_event hp, perform, bufRead, Nat.not_lt.2 hn]
    · simp [step_event hp, perform, bufWrite, Nat.not_lt.2 hn]
  · intro hp hn hv
    simp [step_event hp, perform, bufWrite, hn, Nat.not_lt.2 hv]
  · intro width c hp hc hv
    obtain ⟨r, hi, rfl, -⟩ := exists_writeReg_of_mem hc
    rw [step_event hp]
    exact regWrite_wide hi hv

/-- Settles O20: each of the four transactions only records an answer, or stores in a staged register or the
buffer. -/
theorem hostTransactionsLeaveTheEngines : Obligations.HostTransactionsLeaveTheEngines := by
  intro p b e rest hp hin hcmd hreset
  rw [step_event hp]
  cases e with
  | regRead i =>
    obtain ⟨r, hi⟩ := Option.isSome_iff_exists.1 hin
    simp only [perform, regRead, hi]
    split <;> exact ⟨_, rfl, by simp⟩
  | regWrite i v =>
    cases hi : regAt i with
    | none => simp [inInterface, hi] at hin
    | some r =>
      have hv : v < 2 ^ regWidth p r := by simpa [inInterface, hi] using hin
      refine ⟨_, regWrite_fits hi hv, ?_⟩
      cases r <;> simp [Block.writeReg]
  | bufRead addr =>
    have ha : addr < p.bufsz := by simpa [inInterface] using hin
    cases hb : b.buf.read addr with
    | none => exact ⟨_, bufRead_unwritten ha hb, by simp⟩
    | some v => exact ⟨_, bufRead_written ha hb, by simp⟩
  | bufWrite addr v =>
    obtain ⟨ha, hv⟩ : addr < p.bufsz ∧ v < 256 := by simpa [inInterface] using hin
    exact ⟨_, bufWrite_fits ha hv, by simp⟩
  | command cw => exact absurd rfl (hcmd cw)
  | reset => exact absurd rfl hreset

end Sys2Proof.Proofs

/-! ## What a command that answers has done (10_state.md R20 to R32, 60_exceptions.md R182 to R184) -/

namespace Sys2Proof.Proofs

open Sys2Proof Sys2Proof.Machine Sys2Proof.Claims

section Commands

variable {p : Params}

/-- Everything a command can do to a block when it answers: one constructor per kind of effect. -/
inductive Effect (i : Instr) (b : Block p) : Block p → Prop where
  /-- It was turned away in `FAULTED` (R184). -/
  | turnedAway (hm : b.mode = .faulted) : Effect i b (b.answer (.err .faulted))
  /-- It faulted (R183). -/
  | faulted (code : ErrCode) (cw : Word32) (hm : b.mode ≠ .faulted) :
      Effect i b ((b.enterFault code cw).answer (.err code))
  /-- `construct` latched the staged parameters (R96). -/
  | latched (hi : i = .construct) (hm : b.mode ≠ .faulted) (hc : b.constructError = none) :
      Effect i b (b.latch.answer .ok)
  /-- It wrote `BSE_REM` (R22). -/
  | wroteBse (v : Word p) (hi : writesBseRem i = true) (hm : b.mode = .ready) :
      Effect i b ((b.withBseRem v).answer .ok)
  /-- It wrote `TDE_REM` (R23). -/
  | wroteTde (v : Word p) (hi : writesTdeRem i = true) (hm : b.mode = .ready) :
      Effect i b ((b.withTdeRem v).answer .ok)
  /-- It returned a value, masked to the width (R32). -/
  | returned (v : Word p) (hi : returnsVal i = true) (hm : b.mode = .ready) :
      Effect i b ((b.withResult (v &&& b.sig)).answer (.val (v &&& b.sig)))

/-- The outcome is no next state, or one with an effect of the command. -/
def Effective (i : Instr) (b : Block p) (o : Outcome) : Prop :=
  ∀ t, o = .next t → ∃ c : Block p, t = ⟨p, c⟩ ∧ Effect i b c

/-- A next state with an effect of the command is effective. -/
theorem effective_next {i : Instr} {b c : Block p} (h : Effect i b c) : Effective i b (.next ⟨p, c⟩) := by
  rintro t ⟨⟩
  exact ⟨c, rfl, h⟩

/-- The guard adds only its own two answers (R182). -/
theorem effective_whenReady {i : Instr} {b : Block p} {body : Outcome}
    (h : b.mode = .ready → Effective i b body) : Effective i b (whenReady i b body) := by
  obtain ⟨hm, e⟩ | ⟨hm, e⟩ | ⟨hm, e⟩ := whenReady_cases i b body <;> rw [e]
  · exact effective_next (.turnedAway hm)
  · exact effective_next (.faulted _ _ (by simp [hm]))
  · exact h hm

/-- A range command adds only the range fault (R58). -/
theorem effective_withMessage {i : Instr} {b : Block p} {use : List Byte → Outcome} (hm : b.mode = .ready)
    (h : ∀ bytes, Effective i b (use bytes)) : Effective i b (withMessage i b use) := by
  intro t ht
  obtain rfl | ⟨bytes, -, hu⟩ := withMessage_next ht
  · exact ⟨_, rfl, .faulted _ _ (by simp [hm])⟩
  · exact h bytes t hu

/-- `construct` is turned away in `FAULTED` (R184). -/
theorem exec_construct_faulted {b : Block p} (hm : b.mode = .faulted) :
    exec .construct ⟨p, b⟩ = respondFaulted b := by
  simp [exec, execConstruct, hm]

/-- A failed check of `construct` is fault entry with its code (R96, R182). -/
theorem exec_construct_error {b : Block p} {code : ErrCode} (hm : b.mode ≠ .faulted)
    (hc : b.constructError = some code) :
    exec .construct ⟨p, b⟩ = raiseFault b code (encode .construct) := by
  cases h : b.mode with
  | faulted => exact absurd h hm
  | unconfigured => simp [exec, execConstruct, h, hc]
  | ready => simp [exec, execConstruct, h, hc]

/-- A `construct` that passes its checks latches (R96). -/
theorem exec_construct_latch {b : Block p} (hm : b.mode ≠ .faulted) (hc : b.constructError = none) :
    exec .construct ⟨p, b⟩ = respondOk b.latch := by
  cases h : b.mode with
  | faulted => exact absurd h hm
  | unconfigured => simp [exec, execConstruct, h, hc]
  | ready => simp [exec, execConstruct, h, hc]

/-- `construct` is turned away, faults on a check, or latches. -/
theorem effective_construct (b : Block p) : Effective .construct b (exec .construct ⟨p, b⟩) := by
  by_cases hm : b.mode = .faulted
  · exact exec_construct_faulted hm ▸ effective_next (.turnedAway hm)
  · cases hc : b.constructError with
    | some code => exact exec_construct_error hm hc ▸ effective_next (.faulted _ _ hm)
    | none => exact exec_construct_latch hm hc ▸ effective_next (.latched rfl hm hc)

/-- Every command has one of the effects. -/
theorem exec_effective (i : Instr) (b : Block p) : Effective i b (exec i ⟨p, b⟩) := by
  cases i with
  | construct => exact effective_construct b
  | bsePbit bit => exact effective_whenReady fun hm => effective_next (.wroteBse _ rfl hm)
  | bsePbits val cnt =>
    refine effective_whenReady fun hm => ?_
    split
    · exact effective_next (.faulted _ _ (by simp [hm]))
    · exact effective_next (.wroteBse _ rfl hm)
  | bsePbyte byte => exact effective_whenReady fun hm => effective_next (.wroteBse _ rfl hm)
  | bsePbytes =>
    exact effective_whenReady fun hm => effective_withMessage hm fun _ => effective_next (.wroteBse _ rfl hm)
  | bseReset => exact effective_whenReady fun hm => effective_next (.wroteBse _ rfl hm)
  | bseResetv => exact effective_whenReady fun hm => effective_next (.wroteBse _ rfl hm)
  | bseInterim => exact effective_whenReady fun hm => effective_next (.returned _ rfl hm)
  | bseChecksum => exact effective_whenReady fun hm => effective_next (.returned _ rfl hm)
  | tdePbyte byte => exact effective_whenReady fun hm => effective_next (.wroteTde _ rfl hm)
  | tdePbytes =>
    exact effective_whenReady fun hm => effective_withMessage hm fun _ => effective_next (.wroteTde _ rfl hm)
  | tdeReset => exact effective_whenReady fun hm => effective_next (.wroteTde _ rfl hm)
  | tdeResetv => exact effective_whenReady fun hm => effective_next (.wroteTde _ rfl hm)
  | tdeInterim => exact effective_whenReady fun hm => effective_next (.returned _ rfl hm)
  | tdeChecksum => exact effective_whenReady fun hm => effective_next (.returned _ rfl hm)
  | tbRead sel idx => exact effective_whenReady fun hm => effective_next (.returned _ rfl hm)
  | augCalc =>
    refine effective_whenReady fun hm => ?_
    split
    · exact effective_next (.faulted _ _ (by simp [hm]))
    · exact effective_withMessage hm fun _ => effective_next (.returned _ rfl hm)

/-- A masked value has no bit at or above the width (R36). -/
theorem and_significantBitsMask_lt {W : Nat} (w : Nat) (x : BitVec W) :
    (x &&& significantBitsMask W w).toNat < 2 ^ w := by
  refine Nat.lt_pow_two_of_testBit _ fun i hi => ?_
  rw [BitVec.testBit_toNat, BitVec.getLsbD_and, getLsbD_significantBitsMask]
  simp [Nat.not_lt.2 hi]

end Commands

/-- Settles O55: each effect of a command leaves what the frame names. -/
theorem commandFrame : Obligations.CommandFrame := by
  intro i p b t h
  obtain ⟨c, rfl, he⟩ := exec_effective i b t h
  refine ⟨c, rfl, ?_⟩
  cases he with
  | turnedAway hm => simp
  | faulted code cw hm => simp
  | latched hi hm hc => subst hi; simp [writesBseRem, writesTdeRem]
  | wroteBse v hi hm => simp [hi]
  | wroteTde v hi hm => simp [hi]
  | returned v hi hm => simp [hi]

/-- Settles O56: the only answer `VAL(v)` is the one of a returned value, which is masked. -/
theorem responsesFitTheWidth : Obligations.ResponsesFitTheWidth := by
  intro i p b c v _ h hv
  obtain ⟨_, ⟨⟩, he⟩ := exec_effective i b _ h
  cases he with
  | turnedAway hm => simp at hv
  | faulted code cw hm => simp at hv
  | latched hi hm hc => simp at hv
  | wroteBse u hi hm => simp at hv
  | wroteTde u hi hm => simp at hv
  | returned u hi hm =>
    obtain rfl : u &&& b.sig = v := by simpa using hv
    exact ⟨and_significantBitsMask_lt _ _, rfl⟩

end Sys2Proof.Proofs

/-! ## The datapath at two register capacities (10_state.md R36, R7)

A datapath function computes the low `w` bits of its result from the low `w` bits of its operands.  The reflected
Table-Driven Engine reads more of its remainder than that, and keeps the rest of it zero (R151). -/

namespace Sys2Proof.Proofs

open Sys2Proof Sys2Proof.Machine Sys2Proof.Claims

/-- Two registers, of any two capacities, have the same bits below `w`. -/
def SameBits {V W : Nat} (w : Nat) (x : BitVec V) (y : BitVec W) : Prop := ∀ i < w, x.getLsbD i = y.getLsbD i

/-- A register has no bit at or above `w`. -/
def NoSurplus {W : Nat} (w : Nat) (x : BitVec W) : Prop := ∀ i, w ≤ i → x.getLsbD i = false

/-- What the Table-Driven Engine keeps of a remainder or a table entry: its bits below `w`, and under `P_REFIN = 1` no
surplus bits (R151). -/
structure SameTde {V W : Nat} (w : Nat) (refin : Bool) (x : BitVec V) (y : BitVec W) : Prop where
  low : SameBits w x y
  left : refin = true → NoSurplus w x
  right : refin = true → NoSurplus w y

section Capacity

variable {V W w : Nat} {x u : BitVec V} {y v : BitVec W}

/-- The same bits below `w` are the same number modulo `2^w`. -/
theorem sameBits_iff_mod : SameBits w x y ↔ x.toNat % 2 ^ w = y.toNat % 2 ^ w := by
  simp only [SameBits, ← BitVec.testBit_toNat]
  constructor
  · intro h
    refine Nat.eq_of_testBit_eq fun i => ?_
    by_cases hi : i < w
    · simp [Nat.testBit_mod_two_pow, hi, h i hi]
    · simp [Nat.testBit_mod_two_pow, hi]
  · intro h i hi
    simpa [Nat.testBit_mod_two_pow, hi] using congrArg (Nat.testBit · i) h

/-- Equal numbers have the same bits. -/
theorem sameBits_of_toNat (h : x.toNat = y.toNat) : SameBits w x y := sameBits_iff_mod.2 (by rw [h])

/-- A number loaded into two registers gives the same bits (R34). -/
theorem sameBits_ofNat (hV : w ≤ V) (hW : w ≤ W) (n : Nat) : SameBits w (BitVec.ofNat V n) (BitVec.ofNat W n) :=
  fun i hi => by simp only [BitVec.getLsbD_ofNat, Nat.lt_of_lt_of_le hi hV, Nat.lt_of_lt_of_le hi hW]

/-- A number below `2^w` has no surplus bits. -/
theorem noSurplus_of_lt (h : x.toNat < 2 ^ w) : NoSurplus w x := fun i hi => by
  rw [← BitVec.testBit_toNat]
  exact Nat.testBit_lt_two_pow (Nat.lt_of_lt_of_le h (Nat.pow_le_pow_right (by decide) hi))

/-- Without surplus bits every bit is the same. -/
theorem SameBits.getLsbD_eq (h : SameBits w x y) (hx : NoSurplus w x) (hy : NoSurplus w y) (i : Nat) :
    x.getLsbD i = y.getLsbD i := by
  by_cases hi : i < w
  · exact h i hi
  · rw [hx i (by omega), hy i (by omega)]

/-- The masked value is the same number (R36). -/
theorem SameBits.masked (hV : w ≤ V) (hW : w ≤ W) (h : SameBits w x y) :
    (x &&& significantBitsMask V w).toNat = (y &&& significantBitsMask W w).toNat := by
  refine Nat.eq_of_testBit_eq fun i => ?_
  rw [BitVec.testBit_toNat, BitVec.testBit_toNat, BitVec.getLsbD_and, BitVec.getLsbD_and,
    getLsbD_significantBitsMask, getLsbD_significantBitsMask]
  by_cases hi : i < w
  · rw [h i hi, decide_eq_true (Nat.lt_of_lt_of_le hi hV), decide_eq_true (Nat.lt_of_lt_of_le hi hW)]
  · simp [hi]

theorem SameBits.xor (h : SameBits w x y) (h' : SameBits w u v) : SameBits w (x ^^^ u) (y ^^^ v) := fun i hi => by
  rw [BitVec.getLsbD_xor, BitVec.getLsbD_xor, h i hi, h' i hi]

theorem SameBits.or (h : SameBits w x y) (h' : SameBits w u v) : SameBits w (x ||| u) (y ||| v) := fun i hi => by
  rw [BitVec.getLsbD_or, BitVec.getLsbD_or, h i hi, h' i hi]

theorem SameBits.shiftLeft (hV : w ≤ V) (hW : w ≤ W) (h : SameBits w x y) (n : Nat) :
    SameBits w (x <<< n) (y <<< n) := fun i hi => by
  simp only [BitVec.getLsbD_shiftLeft, Nat.lt_of_lt_of_le hi hV, Nat.lt_of_lt_of_le hi hW, h (i - n) (by omega)]

theorem sameBits_setWidth (hV : w ≤ V) (hW : w ≤ W) (b : Byte) : SameBits w (b.setWidth V) (b.setWidth W) :=
  fun i hi => by simp only [BitVec.getLsbD_setWidth, Nat.lt_of_lt_of_le hi hV, Nat.lt_of_lt_of_le hi hW]

theorem NoSurplus.xor (hx : NoSurplus w x) (hu : NoSurplus w u) : NoSurplus w (x ^^^ u) := fun i hi => by
  rw [BitVec.getLsbD_xor, hx i hi, hu i hi, Bool.xor_false]

theorem NoSurplus.ushiftRight (hx : NoSurplus w x) (n : Nat) : NoSurplus w (x >>> n) := fun i hi => by
  rw [BitVec.getLsbD_ushiftRight, hx _ (by omega)]

/-! ### Reflection and the bit-serial functions -/

/-- A reflection over `w` bits leaves no surplus bits (R93). -/
theorem noSurplus_reflect (hV : w ≤ V) (x : BitVec V) : NoSurplus w (reflect x w) := fun i hi => by
  simp [getLsbD_reflect x w i hV, Nat.not_lt.2 hi]

theorem sameBits_reflect (hV : w ≤ V) (hW : w ≤ W) (h : SameBits w x y) :
    SameBits w (reflect x w) (reflect y w) := fun i hi => by
  rw [getLsbD_reflect x w i hV, getLsbD_reflect y w i hW, h (w - 1 - i) (by omega)]

theorem sameBits_reflectHelper (hV : w ≤ V) (hW : w ≤ W) (h : SameBits w x y) (f : Bool) :
    SameBits w (reflectHelper w x f) (reflectHelper w y f) := by
  cases f with
  | false => exact h
  | true => exact sameBits_reflect hV hW h

/-- A natural remainder, loaded into the Table-Driven Engine (R145, R146). -/
theorem sameTde_reflectHelper (hV : w ≤ V) (hW : w ≤ W) (h : SameBits w x y) (refin : Bool) :
    SameTde w refin (reflectHelper w x refin) (reflectHelper w y refin) where
  low := sameBits_reflectHelper hV hW h refin
  left := by rintro rfl; exact noSurplus_reflect hV x
  right := by rintro rfl; exact noSurplus_reflect hW y

/-- R111 reads no surplus bit. -/
theorem sameBits_bitStep {P : BitVec V} {Q : BitVec W} (hw : 1 ≤ w) (hV : w ≤ V) (hW : w ≤ W)
    (hP : SameBits w P Q) (bit : Bool) (h : SameBits w x y) :
    SameBits w (bitStep w P x bit) (bitStep w Q y bit) := fun i hi => by
  rw [getLsbD_bitStep w P x bit i hw hV, getLsbD_bitStep w Q y bit i hw hW, hP i hi, h (i - 1) (by omega),
    h (w - 1) (by omega)]
  simp only [Nat.lt_of_lt_of_le hi hV, Nat.lt_of_lt_of_le hi hW]

/-- R112 reads no surplus bit. -/
theorem sameBits_processBits {P : BitVec V} {Q : BitVec W} (hw : 1 ≤ w) (hV : w ≤ V) (hW : w ≤ W)
    (hP : SameBits w P Q) (val : Byte) (cnt : Nat) (h : SameBits w x y) :
    SameBits w (processBits w P x val cnt) (processBits w Q y val cnt) := by
  unfold processBits
  generalize val <<< (8 - cnt) = v
  induction cnt generalizing v x y with
  | zero => exact h
  | succ cnt ih => exact ih (sameBits_bitStep hw hV hW hP _ h) _

/-- A relation that every step keeps is kept by folding over the same list. -/
theorem foldl_keeps {α β γ : Type} {R : α → β → Prop} {f : α → γ → α} {g : β → γ → β}
    (hfg : ∀ a b c, R a b → R (f a c) (g b c)) (l : List γ) {a : α} {b : β} (h : R a b) :
    R (l.foldl f a) (l.foldl g b) :=
  List.rel_foldl (R := Eq) (fun _ _ hab _ _ e => e ▸ hfg _ _ _ hab) h (List.forall₂_eq_eq_eq ▸ rfl)

theorem sameBits_divideByte {P : BitVec V} {Q : BitVec W} (hw : 1 ≤ w) (hV : w ≤ V) (hW : w ≤ W)
    (hP : SameBits w P Q) (b : Byte) (h : SameBits w x y) :
    SameBits w (divideByte w P x b) (divideByte w Q y b) :=
  foldl_keeps (fun _ _ _ => sameBits_bitStep hw hV hW hP _) _ h

/-- R113 reads no surplus bit. -/
theorem sameBits_bseByte {P : BitVec V} {Q : BitVec W} (hw : 1 ≤ w) (hV : w ≤ V) (hW : w ≤ W)
    (hP : SameBits w P Q) (refin : Bool) (b : Byte) (h : SameBits w x y) :
    SameBits w (bseByte w P refin x b) (bseByte w Q refin y b) :=
  sameBits_divideByte hw hV hW hP _ h

/-! ### The tables and the functions that read them -/

/-- Two tables built from the same polynomial hold the same entries, without surplus bits when reflected (R130). -/
theorem sameTde_tableEntry {P : BitVec V} {Q : BitVec W} (hw : 1 ≤ w) (hV : w ≤ V) (hW : w ≤ W)
    (hP : SameBits w P Q) (r : Bool) (i : Byte) : SameTde w r (tableEntry w P r i) (tableEntry w Q r i) := by
  have divided (d : Byte) : SameBits w (divideByte w P 0 d) (divideByte w Q 0 d) :=
    sameBits_divideByte hw hV hW hP d fun _ _ => by simp
  cases r with
  | false => exact ⟨divided i, nofun, nofun⟩
  | true =>
    exact ⟨sameBits_reflect hV hW (divided _), fun _ => noSurplus_reflect hV _, fun _ => noSurplus_reflect hW _⟩

/-- The low byte of a register, bit by bit. -/
theorem lowByte_ext (h : SameBits 8 x y) : x.setWidth 8 = y.setWidth 8 :=
  BitVec.eq_of_getLsbD_eq fun i hi => by
    rw [BitVec.getLsbD_setWidth, BitVec.getLsbD_setWidth, h i hi]

/-- The index of R141 is the same: unreflected it is the eight bits below `w`, reflected the lowest eight of a
remainder without surplus bits. -/
theorem tableIndex_eq (hV : 8 ≤ V) (hW : 8 ≤ W) {refin : Bool} (h : SameTde w refin x y) (b : Byte) :
    tableIndex w x b refin = tableIndex w y b refin := by
  have byte : SameBits 8 (b.setWidth V) (b.setWidth W) := sameBits_setWidth hV hW b
  cases refin with
  | true => exact lowByte_ext (.xor (fun i _ => h.low.getLsbD_eq (h.left rfl) (h.right rfl) i) byte)
  | false =>
    by_cases hw : 8 < w
    · have top : SameBits 8 (x >>> (w - 8)) (y >>> (w - 8)) := fun i hi => by
        rw [BitVec.getLsbD_ushiftRight, BitVec.getLsbD_ushiftRight, h.low _ (by omega)]
      simpa [tableIndex, hw] using lowByte_ext (top.xor byte)
    · have top : SameBits 8 (x <<< (8 - w)) (y <<< (8 - w)) := fun i hi => by
        by_cases hn : i < 8 - w
        · simp [BitVec.getLsbD_shiftLeft, hn]
        · simp only [BitVec.getLsbD_shiftLeft, Nat.lt_of_lt_of_le hi hV, Nat.lt_of_lt_of_le hi hW,
            h.low (i - (8 - w)) (by omega)]
      simpa [tableIndex, hw] using lowByte_ext (top.xor byte)

/-- R142 keeps the relation: reflected, the bits shifted in from above are zero. -/
theorem sameTde_tableShift (hV : w ≤ V) (hW : w ≤ W) {refin : Bool} (h : SameTde w refin x y) :
    SameTde w refin (tableShift x refin) (tableShift y refin) := by
  cases refin with
  | false => exact ⟨h.low.shiftLeft hV hW 8, nofun, nofun⟩
  | true =>
    refine ⟨fun i _ => ?_, fun _ => (h.left rfl).ushiftRight 8, fun _ => (h.right rfl).ushiftRight 8⟩
    simp only [tableShift, if_true, BitVec.getLsbD_ushiftRight, h.low.getLsbD_eq (h.left rfl) (h.right rfl)]

theorem SameTde.xor {refin : Bool} (h : SameTde w refin x y) (h' : SameTde w refin u v) :
    SameTde w refin (x ^^^ u) (y ^^^ v) :=
  ⟨h.low.xor h'.low, fun e => (h.left e).xor (h'.left e), fun e => (h.right e).xor (h'.right e)⟩

/-- R143 keeps the relation. -/
theorem sameTde_tdeByte {T : Table V} {U : Table W} (hV8 : 8 ≤ V) (hW8 : 8 ≤ W) (hV : w ≤ V) (hW : w ≤ W)
    {refin : Bool} (hT : ∀ i, SameTde w refin (readEntry T i) (readEntry U i)) (b : Byte) (h : SameTde w refin x y) :
    SameTde w refin (tdeByte w T refin x b) (tdeByte w U refin y b) := by
  unfold tdeByte
  rw [tableIndex_eq hV8 hW8 h b]
  exact (sameTde_tableShift hV hW h).xor (hT _)

/-- R161 reads no surplus bit: its index is the eight bits below `w`. -/
theorem sameBits_augByte {T : Table V} {U : Table W} (hw : 8 ≤ w) (hV : w ≤ V) (hW : w ≤ W)
    (hT : ∀ i, SameBits w (readEntry T i) (readEntry U i)) (b : Byte) (h : SameBits w x y) :
    SameBits w (augByte w T x b) (augByte w U y b) := by
  have index : (x >>> (w - 8)).setWidth 8 = (y >>> (w - 8)).setWidth 8 :=
    lowByte_ext fun i hi => by
      rw [BitVec.getLsbD_ushiftRight, BitVec.getLsbD_ushiftRight, h _ (by omega)]
  unfold augByte
  refine sameBits_of_toNat (SameBits.masked hV hW ?_)
  rw [index]
  exact ((h.shiftLeft hV hW 8).or (sameBits_setWidth hV hW b)).xor (hT _)

end Capacity

/-! ### The responses at two capacities -/

section Responses

variable {V W w : Nat}

/-- The statements' significant mask is the model's (R91). -/
theorem sig_eq (W w : Nat) : sig W w = significantBitsMask W w :=
  BitVec.eq_of_getLsbD_eq fun i hi => by
    rw [getLsbD_significantBitsMask, sig, BitVec.getLsbD_ofNat, Nat.testBit_two_pow_sub_one]

/-- The statements' entry at a byte is the model's (R186). -/
theorem entryAt_toNat (t : Table W) (d : Byte) : entryAt t d.toNat = readEntry t d := by
  simp [entryAt, readEntry, Nat.mod_eq_of_lt d.isLt]

/-- Any feed of the Bit-Serial Engine reads no surplus bit. -/
theorem sameBits_feedBse {P x : BitVec V} {Q y : BitVec W} (hw : 1 ≤ w) (hV : w ≤ V) (hW : w ≤ W)
    (hP : SameBits w P Q) (refin : Bool) (f : Feed) (h : SameBits w x y) :
    SameBits w (feedBse w P refin x f) (feedBse w Q refin y f) := by
  cases f with
  | bit bit => exact sameBits_bitStep hw hV hW hP bit h
  | bits val cnt => exact sameBits_processBits hw hV hW hP val cnt h
  | byte byte => exact sameBits_bseByte hw hV hW hP refin byte h

/-- The entries of the tables that `construct` builds (R130). -/
theorem sameTde_buildTable {P : BitVec V} {Q : BitVec W} (hw : 1 ≤ w) (hV : w ≤ V) (hW : w ≤ W)
    (hP : SameBits w P Q) (r : Bool) (i : Byte) :
    SameTde w r (readEntry (buildTable w P r) i) (readEntry (buildTable w Q r) i) := by
  rw [readEntry_buildTable, readEntry_buildTable]
  exact sameTde_tableEntry hw hV hW hP r i

end Responses

/-- Settles O58: every response masks a register of which the datapath computes the low bits from low bits alone. -/
theorem responsesDoNotDependOnCapacity : Obligations.ResponsesDoNotDependOnCapacity := by
  intro V W w hV8 hW8 hw hV hW poly _
  have hP : SameBits w (BitVec.ofNat V poly) (BitVec.ofNat W poly) := sameBits_ofNat hV hW poly
  refine ⟨fun start xorout refin refout feeds msg => ?_, fun r d => ?_, fun hw8 r0 msg => ?_⟩
  · have hstart := sameBits_ofNat hV hW start
    have hxor := sameBits_ofNat hV hW xorout
    have bse := foldl_keeps (fun _ _ f => sameBits_feedBse hw hV hW hP refin f) feeds hstart
    have tde := foldl_keeps (fun _ _ b => sameTde_tdeByte hV8 hW8 hV hW (sameTde_buildTable hw hV hW hP refin) b) msg
      (sameTde_reflectHelper hV hW hstart refin)
    simp only [streamResponses, sig_eq, List.cons.injEq, and_true]
    exact ⟨bse.masked hV hW, ((sameBits_reflectHelper hV hW bse refout).xor hxor).masked hV hW,
      (sameBits_reflectHelper hV hW tde.low refin).masked hV hW,
      ((sameBits_reflectHelper hV hW tde.low _).xor hxor).masked hV hW⟩
  · rw [sig_eq, sig_eq, entryAt_toNat, entryAt_toNat]
    exact (sameTde_buildTable hw hV hW hP r d).low.masked hV hW
  · have aug := foldl_keeps (fun _ _ b => sameBits_augByte (by omega) hV hW
      (fun i => (sameTde_buildTable hw hV hW hP false i).low) b) msg (sameBits_ofNat hV hW r0)
    rw [augResponse, augResponse, sig_eq, sig_eq]
    exact aug.masked hV hW

end Sys2Proof.Proofs

/-! ## Two alike blocks stay alike (10_state.md R36) -/

namespace Sys2Proof.Proofs

open Sys2Proof Sys2Proof.Machine Sys2Proof.Claims

/-- Two outcomes, of machines with the parameters `p` and `q`, that a host cannot tell apart. -/
inductive AlikeOutcome (p q : Params) : Outcome → Outcome → Prop where
  | next {b : Block p} {c : Block q} (h : Alike b c) : AlikeOutcome p q (.next ⟨p, b⟩) (.next ⟨q, c⟩)
  | fault (f : Fault) : AlikeOutcome p q (.fault f) (.fault f)
  | refused (r : Refusal) : AlikeOutcome p q (.refused r) (.refused r)

/-- Two alike blocks in `READY`, in the terms of the datapath: what the commands read agrees below the width. -/
structure ReadyPair {p q : Params} (b : Block p) (c : Block q) : Prop where
  alike : Alike b c
  width : c.width = b.width
  refin : c.pRefin = b.pRefin
  refout : c.pRefout = b.pRefout
  width_pos : 1 ≤ b.width
  width_le_left : b.width ≤ p.regw
  width_le_right : b.width ≤ q.regw
  poly : SameBits b.width b.pPoly c.pPoly
  init : SameBits b.width b.pInit c.pInit
  xorout : SameBits b.width b.pXorout c.pXorout
  argA : SameBits b.width b.argA c.argA
  bse : SameBits b.width b.bseRem c.bseRem
  tde : SameTde b.width b.pRefin b.tdeRem c.tdeRem
  tdeTable : ∀ i, SameTde b.width b.pRefin (readEntry b.tdeTable i) (readEntry c.tdeTable i)
  augTable : ∀ i, SameBits b.width (readEntry b.augTable i) (readEntry c.augTable i)

section AlikeBlocks

variable {p q : Params} {b : Block p} {c : Block q}

/-- A machine that goes on has an alike machine that goes on. -/
theorem AlikeOutcome.exists_next {b' : Block p} {o : Outcome} (h : AlikeOutcome p q (.next ⟨p, b'⟩) o) :
    ∃ c' : Block q, o = .next ⟨q, c'⟩ ∧ Alike b' c' := by
  cases h with
  | next h => exact ⟨_, rfl, h⟩

/-- Alike blocks in `READY` under the invariant of R212 hold what the datapath reads alike. -/
theorem readyPair_of_alike (h : Alike b c) (hm : b.mode = .ready) (hb : b.ReadyInv) (hc : c.ReadyInv) :
    ReadyPair b c := by
  have e := h.engines hm
  have width : c.width = b.width := congrArg BitVec.toNat e.pW.symm
  have right : b.width ≤ q.regw := width ▸ hc.width_le
  have poly : SameBits b.width b.pPoly c.pPoly := sameBits_of_toNat e.pPoly
  have bse := e.bseRem
  have tde := e.tdeRem
  rw [width] at bse tde
  exact {
    alike := h
    width := width
    refin := e.pRefin.symm
    refout := e.pRefout.symm
    width_pos := hb.width_pos
    width_le_left := hb.width_le
    width_le_right := right
    poly := poly
    init := sameBits_of_toNat e.pInit
    xorout := sameBits_of_toNat e.pXorout
    argA := sameBits_of_toNat h.argA
    bse := sameBits_iff_mod.2 bse
    tde := ⟨sameBits_iff_mod.2 tde, fun hr => noSurplus_of_lt (hb.tde_rem hr),
      fun hr => noSurplus_of_lt (width ▸ hc.tde_rem (e.pRefin ▸ hr))⟩
    tdeTable := by
      rw [hb.tde_table, hc.tde_table, width, ← e.pRefin]
      exact sameTde_buildTable hb.width_pos hb.width_le right poly b.pRefin
    augTable := by
      rw [hb.aug_table, hc.aug_table, width]
      exact fun i => (sameTde_buildTable hb.width_pos hb.width_le right poly false i).low }

/-! ### The updates of the state -/

/-- Alike blocks receive alike answers. -/
theorem alike_answer (h : Alike b c) {a : Answer p} {a' : Answer q} (ha : a.plain = a'.plain) :
    Alike (b.answer a) (c.answer a') :=
  { h with
    answers := by simp [ha, h.answers]
    engines := fun hm => { h.engines hm with } }

/-- Alike blocks take the same fault. -/
theorem alike_enterFault (h : Alike b c) (code : ErrCode) (cw : Word32) :
    Alike (b.enterFault code cw) (c.enterFault code cw) :=
  { h with
    mode := rfl
    code := rfl
    faultCw := rfl
    engines := nofun }

/-- The host's list is taken on alike. -/
theorem alike_withPending (h : Alike b c) (rest : List HostEvent) :
    Alike { b with pending := rest } { c with pending := rest } :=
  { h with
    pending := rfl
    engines := fun hm => { h.engines hm with } }

/-- Alike buffers take the same byte. -/
theorem alike_withBufWrite (h : Alike b c) (addr : Nat) (v : Byte) :
    Alike { b with buf := b.buf.write addr v } { c with buf := c.buf.write addr v } :=
  { h with
    buf := by rw [h.buf]
    engines := fun hm => { h.engines hm with } }

/-- `BSE_REM` is written with the same bits below the width. -/
theorem ReadyPair.withBseRem (r : ReadyPair b c) {v : Word p} {v' : Word q} (hv : SameBits b.width v v') :
    Alike (b.withBseRem v) (c.withBseRem v') :=
  { r.alike with
    engines := fun hm => { r.alike.engines hm with
      bseRem := by simpa [r.width] using sameBits_iff_mod.1 hv } }

/-- `TDE_REM` is written with the same bits below the width. -/
theorem ReadyPair.withTdeRem (r : ReadyPair b c) {v : Word p} {v' : Word q} (hv : SameBits b.width v v') :
    Alike (b.withTdeRem v) (c.withTdeRem v') :=
  { r.alike with
    engines := fun hm => { r.alike.engines hm with
      tdeRem := by simpa [r.width] using sameBits_iff_mod.1 hv } }

/-- `RESULT` is written with the same number. -/
theorem alike_withResult (h : Alike b c) {v : Word p} {v' : Word q} (hv : v.toNat = v'.toNat) :
    Alike (b.withResult v) (c.withResult v') :=
  { h with
    rvalid := rfl
    result := fun _ => hv
    engines := fun hm => { h.engines hm with } }

/-! ### The responses -/

theorem alikeOutcome_raiseFault (h : Alike b c) (code : ErrCode) (cw : Word32) :
    AlikeOutcome p q (raiseFault b code cw) (raiseFault c code cw) :=
  .next (alike_answer (alike_enterFault h code cw) rfl)

theorem alikeOutcome_respondFaulted (h : Alike b c) : AlikeOutcome p q (respondFaulted b) (respondFaulted c) :=
  .next (alike_answer h rfl)

/-- A command that answers `OK` after writing `BSE_REM`. -/
theorem ReadyPair.wroteBse (r : ReadyPair b c) {v : Word p} {v' : Word q} (hv : SameBits b.width v v') :
    AlikeOutcome p q (respondOk (b.withBseRem v)) (respondOk (c.withBseRem v')) :=
  .next (alike_answer (r.withBseRem hv) rfl)

/-- A command that answers `OK` after writing `TDE_REM`. -/
theorem ReadyPair.wroteTde (r : ReadyPair b c) {v : Word p} {v' : Word q} (hv : SameBits b.width v v') :
    AlikeOutcome p q (respondOk (b.withTdeRem v)) (respondOk (c.withTdeRem v')) :=
  .next (alike_answer (r.withTdeRem hv) rfl)

/-- A command that returns a masked value (R36). -/
theorem ReadyPair.returned (r : ReadyPair b c) {v : Word p} {v' : Word q} (hv : SameBits b.width v v') :
    AlikeOutcome p q (respondVal b (v &&& b.sig)) (respondVal c (v' &&& c.sig)) := by
  have masked : (v &&& b.sig).toNat = (v' &&& c.sig).toNat := by
    rw [Block.sig, Block.sig, r.width]
    exact hv.masked r.width_le_left r.width_le_right
  exact .next (alike_answer (alike_withResult r.alike masked) (by simp [Answer.plain, masked]))

/-- The guard treats alike blocks alike (R182). -/
theorem alikeOutcome_whenReady (h : Alike b c) {i : Instr} {o o' : Outcome}
    (body : b.mode = .ready → AlikeOutcome p q o o') :
    AlikeOutcome p q (whenReady i b o) (whenReady i c o') := by
  cases hm : b.mode with
  | faulted =>
    rw [whenReady_faulted hm, whenReady_faulted (h.mode ▸ hm)]
    exact alikeOutcome_respondFaulted h
  | unconfigured =>
    rw [whenReady_unconfigured hm, whenReady_unconfigured (h.mode ▸ hm)]
    exact alikeOutcome_raiseFault h _ _
  | ready =>
    rw [whenReady_ready hm, whenReady_ready (h.mode ▸ hm)]
    exact body hm

/-- Alike blocks read the same range (R52, R58). -/
theorem alikeOutcome_withMessage (h : Alike b c) {i : Instr} {use use' : List Byte → Outcome}
    (body : ∀ bytes, AlikeOutcome p q (use bytes) (use' bytes)) :
    AlikeOutcome p q (withMessage i b use) (withMessage i c use') := by
  have range : c.rangeOk = b.rangeOk := by simp [Block.rangeOk, h.argOff, h.argSize, h.bufsz]
  have message : c.message = b.message := by simp [Block.message, h.argOff, h.argSize, h.buf]
  unfold withMessage
  rw [range, message]
  cases b.rangeOk with
  | false => exact alikeOutcome_raiseFault h _ _
  | true =>
    cases b.message with
    | ok bytes => exact body bytes
    | error addr => exact .refused _

/-! ### construct -/

/-- Whether a shifted register is zero depends on its number only (R96). -/
theorem ushiftRight_eq_zero_congr {V W : Nat} {x : BitVec V} {y : BitVec W} (h : x.toNat = y.toNat) (n : Nat) :
    x >>> n = 0 ↔ y >>> n = 0 := by
  simp [← BitVec.toNat_inj, h]

/-- The checks of `construct` come out alike when both blocks can hold the staged width, or neither (R96). -/
theorem constructError_congr (h : Alike b c)
    (hw : b.cfgWidth.toNat ≤ p.regw ↔ b.cfgWidth.toNat ≤ q.regw) : c.constructError = b.constructError := by
  have width : q.regw < b.cfgWidth.toNat ↔ p.regw < b.cfgWidth.toNat := by omega
  simp only [Block.constructError, ← h.cfgWidth, width, ne_eq, ushiftRight_eq_zero_congr h.cfgPoly,
    ushiftRight_eq_zero_congr h.cfgInit]

/-- The width that passes the checks fits the register (R96). -/
theorem width_of_constructError_none (h : b.constructError = none) :
    1 ≤ b.cfgWidth.toNat ∧ b.cfgWidth.toNat ≤ p.regw := by
  unfold Block.constructError at h
  split at h
  · cases h
  · omega

/-- What `construct` latches is alike (R96). -/
theorem alike_latch (h : Alike b c) (hw : 1 ≤ b.cfgWidth.toNat) (hp : b.cfgWidth.toNat ≤ p.regw)
    (hq : b.cfgWidth.toNat ≤ q.regw) : Alike b.latch c.latch := by
  have poly : SameBits b.cfgWidth.toNat b.cfgPoly c.cfgPoly := sameBits_of_toNat h.cfgPoly
  have init : SameBits b.cfgWidth.toNat b.cfgInit c.cfgInit := sameBits_of_toNat h.cfgInit
  refine { h with mode := rfl, engines := fun _ => ?_ }
  exact {
    pW := h.cfgWidth
    pPoly := h.cfgPoly
    pInit := h.cfgInit
    pXorout := h.cfgXorout
    pRefin := by simp [h.cfgCtrl]
    pRefout := by simp [h.cfgCtrl]
    bseRem := by simpa [← h.cfgWidth] using sameBits_iff_mod.1 init
    tdeRem := by
      simpa [← h.cfgWidth, ← h.cfgCtrl] using sameBits_iff_mod.1 (sameBits_reflectHelper hp hq init _)
    tdeTable := fun i => by
      simpa [← h.cfgWidth, ← h.cfgCtrl] using sameBits_iff_mod.1 (sameTde_tableEntry hw hp hq poly _ i).low
    augTable := fun i => by
      simpa [← h.cfgWidth] using sameBits_iff_mod.1 (sameTde_tableEntry hw hp hq poly false i).low }

/-- `construct` on alike blocks. -/
theorem alikeOutcome_exec_construct (h : Alike b c)
    (hw : b.cfgWidth.toNat ≤ p.regw ↔ b.cfgWidth.toNat ≤ q.regw) :
    AlikeOutcome p q (exec .construct ⟨p, b⟩) (exec .construct ⟨q, c⟩) := by
  by_cases hm : b.mode = .faulted
  · rw [exec_construct_faulted hm, exec_construct_faulted (h.mode ▸ hm)]
    exact alikeOutcome_respondFaulted h
  · cases hc : b.constructError with
    | some code =>
      rw [exec_construct_error hm hc, exec_construct_error (h.mode ▸ hm) ((constructError_congr h hw).trans hc)]
      exact alikeOutcome_raiseFault h _ _
    | none =>
      rw [exec_construct_latch hm hc, exec_construct_latch (h.mode ▸ hm) ((constructError_congr h hw).trans hc)]
      obtain ⟨h1, h2⟩ := width_of_constructError_none hc
      exact .next (alike_answer (alike_latch h h1 h2 (hw.1 h2)) rfl)

/-! ### What the commands compute in `READY` -/

/-- R111 on both blocks. -/
theorem ReadyPair.bse_afterBit (r : ReadyPair b c) (bit : Bool) :
    SameBits b.width (bitStep b.width b.pPoly b.bseRem bit) (bitStep c.width c.pPoly c.bseRem bit) := by
  rw [r.width]
  exact sameBits_bitStep r.width_pos r.width_le_left r.width_le_right r.poly bit r.bse

/-- R112 on both blocks. -/
theorem ReadyPair.bse_afterBits (r : ReadyPair b c) (val : Byte) (cnt : Nat) :
    SameBits b.width (processBits b.width b.pPoly b.bseRem val cnt)
      (processBits c.width c.pPoly c.bseRem val cnt) := by
  rw [r.width]
  exact sameBits_processBits r.width_pos r.width_le_left r.width_le_right r.poly val cnt r.bse

/-- R114 on both blocks. -/
theorem ReadyPair.bse_afterBytes (r : ReadyPair b c) (bytes : List Byte) :
    SameBits b.width (bytes.foldl (bseByte b.width b.pPoly b.pRefin) b.bseRem)
      (bytes.foldl (bseByte c.width c.pPoly c.pRefin) c.bseRem) := by
  rw [r.width, r.refin]
  exact foldl_keeps (R := SameBits b.width) (fun _ _ byte hx =>
    sameBits_bseByte r.width_pos r.width_le_left r.width_le_right r.poly b.pRefin byte hx) bytes r.bse

/-- R144 on both blocks. -/
theorem ReadyPair.tde_afterBytes (r : ReadyPair b c) (bytes : List Byte) :
    SameBits b.width (bytes.foldl (tdeByte b.width b.tdeTable b.pRefin) b.tdeRem)
      (bytes.foldl (tdeByte c.width c.tdeTable c.pRefin) c.tdeRem) := by
  rw [r.width, r.refin]
  exact (foldl_keeps (R := SameTde b.width b.pRefin) (fun _ _ byte hx =>
    sameTde_tdeByte p.eight_le_regw q.eight_le_regw r.width_le_left r.width_le_right r.tdeTable byte hx)
    bytes r.tde).low

/-- R161 on both blocks. -/
theorem ReadyPair.aug_afterBytes (r : ReadyPair b c) (hw : 8 ≤ b.width) (bytes : List Byte) :
    SameBits b.width (bytes.foldl (augByte b.width b.augTable) b.argA)
      (bytes.foldl (augByte c.width c.augTable) c.argA) := by
  rw [r.width]
  exact foldl_keeps (R := SameBits b.width) (fun _ _ byte hx =>
    sameBits_augByte hw r.width_le_left r.width_le_right r.augTable byte hx) bytes r.argA

/-- R94 on both blocks, by the same flag. -/
theorem ReadyPair.reflected (r : ReadyPair b c) {x : Word p} {y : Word q} (h : SameBits b.width x y) {f g : Bool}
    (hf : g = f) : SameBits b.width (reflectHelper b.width x f) (reflectHelper c.width y g) := by
  rw [r.width, hf]
  exact sameBits_reflectHelper r.width_le_left r.width_le_right h f

/-- R133 on both blocks. -/
theorem ReadyPair.entry (r : ReadyPair b c) (sel : Bool) (idx : Byte) :
    SameBits b.width (readEntry (if sel then b.augTable else b.tdeTable) idx)
      (readEntry (if sel then c.augTable else c.tdeTable) idx) := by
  cases sel with
  | false => exact (r.tdeTable idx).low
  | true => exact r.augTable idx

/-! ### The events -/

/-- Every command on alike blocks. -/
theorem alikeOutcome_exec (h : Alike b c) (ready : b.mode = .ready → ReadyPair b c) (i : Instr)
    (hw : i = .construct → (b.cfgWidth.toNat ≤ p.regw ↔ b.cfgWidth.toNat ≤ q.regw)) :
    AlikeOutcome p q (exec i ⟨p, b⟩) (exec i ⟨q, c⟩) := by
  have guarded {i : Instr} {o o' : Outcome} (body : ReadyPair b c → AlikeOutcome p q o o') :
      AlikeOutcome p q (whenReady i b o) (whenReady i c o') :=
    alikeOutcome_whenReady h fun hm => body (ready hm)
  cases i with
  | construct => exact alikeOutcome_exec_construct h (hw rfl)
  | bsePbit bit => exact guarded fun r => r.wroteBse (r.bse_afterBit bit)
  | bsePbits val cnt =>
    refine guarded fun r => ?_
    split
    · exact alikeOutcome_raiseFault h _ _
    · exact r.wroteBse (r.bse_afterBits val _)
  | bsePbyte byte => exact guarded fun r => r.wroteBse (r.bse_afterBytes [byte])
  | bsePbytes =>
    exact guarded fun r => alikeOutcome_withMessage h fun bytes => r.wroteBse (r.bse_afterBytes bytes)
  | bseReset => exact guarded fun r => r.wroteBse r.init
  | bseResetv => exact guarded fun r => r.wroteBse r.argA
  | bseInterim => exact guarded fun r => r.returned r.bse
  | bseChecksum => exact guarded fun r => r.returned ((r.reflected r.bse r.refout).xor r.xorout)
  | tdePbyte byte => exact guarded fun r => r.wroteTde (r.tde_afterBytes [byte])
  | tdePbytes =>
    exact guarded fun r => alikeOutcome_withMessage h fun bytes => r.wroteTde (r.tde_afterBytes bytes)
  | tdeReset => exact guarded fun r => r.wroteTde (r.reflected r.init r.refin)
  | tdeResetv => exact guarded fun r => r.wroteTde (r.reflected r.argA r.refin)
  | tdeInterim => exact guarded fun r => r.returned (r.reflected r.tde.low r.refin)
  | tdeChecksum =>
    exact guarded fun r => r.returned ((r.reflected r.tde.low (by rw [r.refout, r.refin])).xor r.xorout)
  | tbRead sel idx => exact guarded fun r => r.returned (r.entry sel idx)
  | augCalc =>
    refine guarded fun r => ?_
    rw [r.width]
    split
    · exact alikeOutcome_raiseFault h _ _
    · have hw : 8 ≤ b.width := by have := r.width_pos; omega
      exact alikeOutcome_withMessage h fun bytes => r.returned (r.width ▸ r.aug_afterBytes hw bytes)

/-- A word no row matches, on alike blocks. -/
theorem alikeOutcome_illegalCommand (h : Alike b c) (cw : Word32) :
    AlikeOutcome p q (illegalCommand cw b) (illegalCommand cw c) := by
  unfold illegalCommand
  rw [← h.mode]
  cases b.mode with
  | faulted => exact alikeOutcome_respondFaulted h
  | unconfigured => exact alikeOutcome_raiseFault h _ _
  | ready => exact alikeOutcome_raiseFault h _ _

/-- A register that has a value holds the same number in alike blocks (R36). -/
theorem readReg_congr (h : Alike b c) {r : RegName} (hr : r = .result → b.rvalid = true) :
    b.readReg r = c.readReg r := by
  cases r with
  | cfgWidth => exact congrArg BitVec.toNat h.cfgWidth
  | cfgPoly => exact h.cfgPoly
  | cfgInit => exact h.cfgInit
  | cfgXorout => exact h.cfgXorout
  | cfgCtrl => exact congrArg BitVec.toNat h.cfgCtrl
  | argA => exact h.argA
  | argOff => exact congrArg BitVec.toNat h.argOff
  | argSize => exact congrArg BitVec.toNat h.argSize
  | status => simp [Block.readReg, Block.statusWord, Block.codeBits, h.mode, h.rvalid, h.code]
  | result => exact h.result (hr rfl)
  | faultCw => exact congrArg BitVec.toNat h.faultCw

/-- A number that fits two registers is the same number in both. -/
theorem toNat_ofNat_congr {V W v : Nat} (hV : v < 2 ^ V) (hW : v < 2 ^ W) :
    (BitVec.ofNat V v).toNat = (BitVec.ofNat W v).toNat := by
  simp [Nat.mod_eq_of_lt hV, Nat.mod_eq_of_lt hW]

/-- A value that fits both registers is stored alike. -/
theorem alike_writeReg (h : Alike b c) {r : RegName} {v : Nat} (hp : v < 2 ^ regWidth p r)
    (hq : v < 2 ^ regWidth q r) : Alike (b.writeReg v r) (c.writeReg v r) := by
  cases r with
  | cfgWidth => exact { h with cfgWidth := rfl, engines := fun hm => { h.engines hm with } }
  | cfgPoly => exact { h with cfgPoly := toNat_ofNat_congr hp hq, engines := fun hm => { h.engines hm with } }
  | cfgInit => exact { h with cfgInit := toNat_ofNat_congr hp hq, engines := fun hm => { h.engines hm with } }
  | cfgXorout => exact { h with cfgXorout := toNat_ofNat_congr hp hq, engines := fun hm => { h.engines hm with } }
  | cfgCtrl => exact { h with cfgCtrl := rfl, engines := fun hm => { h.engines hm with } }
  | argA => exact { h with argA := toNat_ofNat_congr hp hq, engines := fun hm => { h.engines hm with } }
  | argOff => exact { h with argOff := rfl, engines := fun hm => { h.engines hm with } }
  | argSize => exact { h with argSize := rfl, engines := fun hm => { h.engines hm with } }
  | status | result | faultCw => exact h

/-- Blocks right after reset are alike, whatever they held before (R38). -/
theorem alike_reset (h : p.bufsz = q.bufsz) : Alike (Block.reset : Block p) (Block.reset : Block q) where
  bufsz := h
  cfgWidth := rfl
  cfgPoly := by simp [Block.reset]
  cfgInit := by simp [Block.reset]
  cfgXorout := by simp [Block.reset]
  cfgCtrl := rfl
  argA := by simp [Block.reset]
  argOff := rfl
  argSize := rfl
  mode := rfl
  rvalid := rfl
  code := rfl
  faultCw := rfl
  result := nofun
  buf := rfl
  pending := rfl
  answers := rfl
  engines := nofun

/-- The reset event leaves alike blocks (R210). -/
theorem alike_resetBlock (h : Alike b c) : Alike (resetBlock b) (resetBlock c) :=
  { alike_reset h.bufsz with pending := h.pending, engines := nofun }

/-- What keeps an event out of the comparison is absent: both blocks have the move, and it reads nothing that the spec
leaves unspecified (R228, U9). -/
structure Comparable (b : Block p) (q : Params) (e : HostEvent) : Prop where
  left : inInterface p e = true
  right : inInterface q e = true
  result : e = .regRead 0x09 → b.rvalid = true
  byte : ∀ addr, e = .bufRead addr → b.buf.read addr ≠ none
  width : ∀ cw, e = .command cw → decode cw = .ok .construct →
    (b.cfgWidth.toNat ≤ p.regw ↔ b.cfgWidth.toNat ≤ q.regw)

/-- Every event on alike blocks. -/
theorem alikeOutcome_perform (h : Alike b c) (ready : b.mode = .ready → ReadyPair b c) {e : HostEvent}
    (he : Comparable b q e) : AlikeOutcome p q (perform e b) (perform e c) := by
  obtain ⟨left, right, result, byte, width⟩ := he
  cases e with
  | regRead i =>
    obtain ⟨r, hi⟩ := Option.isSome_iff_exists.1 left
    have hr : r = .result → b.rvalid = true := by
      rintro rfl
      exact result (by rw [regAt_eq_result hi])
    simp only [perform]
    rw [regRead_value hi hr, regRead_value hi (h.rvalid ▸ hr)]
    exact .next (alike_answer h (by simp [Answer.plain, readReg_congr h hr]))
  | regWrite i v =>
    cases hi : regAt i with
    | none => simp [inInterface, hi] at left
    | some r =>
      have hp : v < 2 ^ regWidth p r := by simpa [inInterface, hi] using left
      have hq : v < 2 ^ regWidth q r := by simpa [inInterface, hi] using right
      simp only [perform]
      rw [regWrite_fits hi hp, regWrite_fits hi hq]
      exact .next (alike_writeReg h hp hq)
  | bufRead addr =>
    have hp : addr < p.bufsz := by simpa [inInterface] using left
    obtain ⟨v, hv⟩ := Option.ne_none_iff_exists'.1 (byte addr rfl)
    simp only [perform]
    rw [bufRead_written hp hv, bufRead_written (h.bufsz ▸ hp) (h.buf ▸ hv)]
    exact .next (alike_answer h rfl)
  | bufWrite addr v =>
    obtain ⟨hp, hv⟩ : addr < p.bufsz ∧ v < 256 := by simpa [inInterface] using left
    simp only [perform]
    rw [bufWrite_fits hp hv, bufWrite_fits (h.bufsz ▸ hp) hv]
    exact .next (alike_withBufWrite h addr _)
  | command cw =>
    simp only [perform, command]
    cases hd : decode cw with
    | error _ => exact alikeOutcome_illegalCommand h cw
    | ok i => exact alikeOutcome_exec h ready i fun hi => width cw rfl (hi ▸ hd)
  | reset => exact .next (alike_resetBlock h)

/-- The invariant of R212 does not speak of the host's list. -/
theorem readyInv_withPending (h : b.ReadyInv) (rest : List HostEvent) :
    ({ b with pending := rest } : Block p).ReadyInv := { h with }

/-- One step of alike blocks. -/
theorem alikeOutcome_step (h : Alike b c) (ready : b.mode = .ready → b.ReadyInv ∧ c.ReadyInv)
    (he : ∀ e rest, b.pending = e :: rest → Comparable b q e) :
    AlikeOutcome p q (step ⟨p, b⟩) (step ⟨q, c⟩) := by
  cases hp : b.pending with
  | nil =>
    rw [step_idle hp, step_idle (h.pending ▸ hp)]
    exact .next h
  | cons e rest =>
    rw [step_event hp, step_event (h.pending ▸ hp)]
    have h' := alike_withPending h rest
    refine alikeOutcome_perform h' (fun hm => ?_) { he e rest hp with }
    obtain ⟨hb, hc⟩ := ready hm
    exact readyPair_of_alike h' hm (readyInv_withPending hb rest) (readyInv_withPending hc rest)

end AlikeBlocks

/-- Settles O60: every event takes alike blocks to alike outcomes, so where one goes on the other does. -/
theorem alikeBlocksStayAlike : Obligations.AlikeBlocksStayAlike := by
  refine ⟨fun p q => alike_reset, fun p q b b' c ready h he hs => ?_⟩
  have comparable : ∀ e rest, b.pending = e :: rest → Comparable b q e := fun e rest hp => by
    obtain ⟨left, right, result, byte, width⟩ := he e rest hp
    exact ⟨left, right, result, byte, width⟩
  have stepped := alikeOutcome_step h ready comparable
  rw [hs] at stepped
  exact stepped.exists_next

end Sys2Proof.Proofs

/-! ## The message buffer (20_memory.md R51 to R53, R58) -/

namespace Sys2Proof.Proofs

open Sys2Proof Sys2Proof.Machine Sys2Proof.Claims

/-- Settles O17: the step is the transaction's own rule, and a buffer write is read back at its address alone. -/
theorem bufferAccess : Obligations.BufferAccess := by
  constructor
  · intro p b rest addr v hp ha hv
    rw [step_event hp]
    exact ⟨_, bufWrite_fits ha hv, rfl, Memory.read_write_self _ _ _,
      fun a hne => Memory.read_write_of_ne _ _ _ _ hne⟩
  · intro p b rest addr v hp ha hv
    rw [step_event hp]
    exact bufRead_written ha hv

/-- A range that passes the bounds check is read up to its first unwritten byte, which the refusal names (R52). -/
theorem withMessage_unwritten {p : Params} {b : Block p} {addr : Nat} (i : Instr) (use : List Byte → Outcome)
    (range : b.argOff.toNat + b.argSize.toNat ≤ p.bufsz) (off_le : b.argOff.toNat ≤ addr)
    (lt_end : addr < b.argOff.toNat + b.argSize.toNat) (unwritten : b.buf.read addr = none)
    (written : ∀ a, b.argOff.toNat ≤ a → a < addr → b.buf.read a ≠ none) :
    withMessage i b use = .refused (.unwrittenByte addr) := by
  have message : b.message = .error addr :=
    (Memory.readRange_eq_error _ _ _ _).2 ⟨off_le, lt_end, unwritten, written⟩
  simp [withMessage, Block.rangeOk, range, message]

/-- In `READY`, at a width `aug.calc` takes, the range alone decides (R161, R162). -/
theorem exec_augCalc_ready {p : Params} {b : Block p} (hm : b.mode = .ready) (hw : b.width % 8 = 0) :
    exec .augCalc ⟨p, b⟩ = withMessage .augCalc b fun bytes =>
      respondVal b (bytes.foldl (augByte b.width b.augTable) b.argA &&& b.sig) := by
  simp [exec, execAugCalc, hm, hw]

/-- Settles O54: in `READY` each of the three commands is its use of the range, which is refused. -/
theorem unwrittenByteIsRefused : Obligations.UnwrittenByteIsRefused := by
  intro p b addr hm range off_le lt_end unwritten written
  have refused (i : Instr) (use : List Byte → Outcome) : withMessage i b use = .refused (.unwrittenByte addr) :=
    withMessage_unwritten i use range off_le lt_end unwritten written
  refine ⟨?_, ?_, fun hw => ?_⟩
  · exact (whenReady_ready hm).trans (refused .bsePbytes _)
  · exact (whenReady_ready hm).trans (refused .tdePbytes _)
  · exact (exec_augCalc_ready hm hw).trans (refused .augCalc _)

end Sys2Proof.Proofs

/-! ## The encoding (30_encoding.md R71 to R83)

A row fixes the bits of its mask and reads its operands from the others.  So encoding what a row reads gives back the
word with the row's pattern in the fixed bits (`encode_read`), and a row covers a word exactly when the fixed bits are
the pattern; both directions of R80 follow from that and from the rows being apart. -/

namespace Sys2Proof.Proofs

open Sys2Proof Sys2Proof.Machine Sys2Proof.Claims

/-! ### Which row covers a word (R79, R80) -/

/-- A word is a row's command when the bits the row fixes are the row's (R79). -/
theorem covers_iff {r : Row} {cw : Word32} : r.covers cw = true ↔ cw &&& r.mask = r.pattern := by
  simp [Row.covers]

/-- A row's pattern sets only bits the row fixes. -/
theorem rows_pattern_and_mask : ∀ r ∈ rows, r.pattern &&& r.mask = r.pattern := by decide

/-- Any two rows disagree on a bit that both fix. -/
theorem rows_pairwise_apart : rows.Pairwise fun r t => r.pattern &&& t.mask ≠ t.pattern &&& r.mask := by decide

/-- No word has both values of the bit two rows disagree on. -/
theorem rows_pairwise_not_covers (cw : Word32) :
    rows.Pairwise fun r t => ¬ (r.covers cw = true ∧ t.covers cw = true) := by
  refine rows_pairwise_apart.imp fun {r t} apart ⟨hr, ht⟩ => apart ?_
  rw [← covers_iff.1 hr, ← covers_iff.1 ht, BitVec.and_assoc, BitVec.and_assoc, BitVec.and_comm r.mask]

/-- Settles O3: of two covering rows the second would disagree with the first on a bit both fix. -/
theorem rowsDoNotOverlap : Obligations.RowsDoNotOverlap := by
  intro cw
  have apart := (rows_pairwise_not_covers cw).filter (·.covers cw)
  have covers : ∀ r ∈ rows.filter (·.covers cw), r.covers cw = true := fun r hr => (List.mem_filter.1 hr).2
  revert apart covers
  cases rows.filter (·.covers cw) with
  | nil => simp
  | cons r l =>
    cases l with
    | nil => simp
    | cons t l =>
      intro apart covers
      exact absurd ⟨covers r (by simp), covers t (by simp)⟩ (List.rel_of_pairwise_cons apart (by simp))

/-- The rows that cover one word are one row. -/
theorem eq_of_covers {cw : Word32} {r t : Row} (hr : r ∈ rows) (ht : t ∈ rows) (cr : r.covers cw = true)
    (ct : t.covers cw = true) : r = t := by
  have mr : r ∈ rows.filter (·.covers cw) := List.mem_filter.2 ⟨hr, cr⟩
  have mt : t ∈ rows.filter (·.covers cw) := List.mem_filter.2 ⟨ht, ct⟩
  obtain ⟨u, hu⟩ := List.length_eq_one_iff.1 (Nat.le_antisymm (rowsDoNotOverlap cw) (List.length_pos_of_mem mr))
  rw [hu, List.mem_singleton] at mr mt
  rw [mr, mt]

/-- A word decodes to what the row that covers it reads (R80). -/
theorem decode_eq_ok_iff {cw : Word32} {i : Instr} :
    decode cw = .ok i ↔ ∃ r ∈ rows, r.covers cw = true ∧ r.read cw = i := by
  unfold decode
  cases h : rows.find? (·.covers cw) with
  | none =>
    have uncovered := List.find?_eq_none.1 h
    exact ⟨nofun, fun ⟨r, hr, cr, _⟩ => absurd cr (uncovered r hr)⟩
  | some r =>
    have hr := List.mem_of_find?_eq_some h
    have cr := List.find?_some h
    constructor
    · rintro ⟨⟩
      exact ⟨r, hr, cr, rfl⟩
    · rintro ⟨t, ht, ct, rfl⟩
      rw [eq_of_covers hr ht cr ct]

/-- A word is illegal when no row covers it (R80). -/
theorem exists_decode_eq_error_iff {cw : Word32} :
    (∃ e, decode cw = .error e) ↔ ¬ ∃ r ∈ rows, r.covers cw = true := by
  rw [← List.find?_isSome, decode]
  cases rows.find? (·.covers cw) <;> simp

/-! ### The fields of a word, back in their places (R73 to R77) -/

/-- A field of a word, put back where it stood, is the word with every other bit cleared. -/
theorem placed_extractLsb' (cw : Word32) (start len : Nat) :
    (cw.extractLsb' start len).setWidth 32 <<< start = cw &&& (BitVec.allOnes len).setWidth 32 <<< start := by
  apply BitVec.eq_of_getLsbD_eq
  intro i hi
  by_cases hs : i < start
  · simp [hs]
  · simp [show start + (i - start) = i by omega, hs, hi, Bool.and_comm]

/-- `cw[7:0]` in its place. -/
theorem placed_fieldByte (cw : Word32) : (fieldByte cw).setWidth 32 = cw &&& 0xFF#32 :=
  (BitVec.shiftLeft_zero _).symm.trans (placed_extractLsb' cw 0 8)

/-- `cw[11:8]` in its place. -/
theorem placed_fieldCnt (cw : Word32) : (fieldCnt cw).setWidth 32 <<< 8 = cw &&& 0xF00#32 :=
  placed_extractLsb' cw 8 4

/-- `cw[0]` in its place. -/
theorem placed_fieldBit (cw : Word32) : (if fieldBit cw then 1#32 else 0#32) = cw &&& 1#32 :=
  (BitVec.and_twoPow cw 0).symm

/-- `cw[8]` in its place. -/
theorem placed_fieldSel (cw : Word32) : (if fieldSel cw then 0x100#32 else 0#32) = cw &&& 0x100#32 :=
  (BitVec.and_twoPow cw 8).symm

/-- Encoding what a row reads keeps every bit the row leaves to its operands, and puts the pattern in the others. -/
theorem encode_read : ∀ r ∈ rows, ∀ cw, encode (r.read cw) = r.pattern ||| (cw &&& ~~~r.mask) := by
  simp [rows, rowsSystemBse, rowsTdeTbAug, encode, placed_fieldByte, placed_fieldCnt, placed_fieldSel,
    placed_fieldBit, BitVec.or_assoc, ← BitVec.and_or_distrib_left]

/-- A row covers the word of every command it reads, from whatever word. -/
theorem covers_encode_read {r : Row} (hr : r ∈ rows) (cw : Word32) : r.covers (encode (r.read cw)) = true := by
  rw [covers_iff, encode_read r hr, BitVec.and_or_distrib_right, rows_pattern_and_mask r hr, BitVec.and_assoc]
  simp

/-- A covered word is the word of the command its row reads. -/
theorem encode_read_of_covers {r : Row} {cw : Word32} (hr : r ∈ rows) (cr : r.covers cw = true) :
    encode (r.read cw) = cw := by
  rw [encode_read r hr, ← covers_iff.1 cr, ← BitVec.and_or_distrib_left, BitVec.or_not_self, BitVec.and_allOnes]

/-! ### The operands of a command's own word -/

/-- A byte put at the foot of a word that leaves it free is read back (R75 to R77). -/
theorem fieldByte_or {x : Word32} (b : Byte) (hx : fieldByte x = 0) : fieldByte (x ||| b.setWidth 32) = b := by
  have placed : fieldByte (b.setWidth 32) = b := by simp [fieldByte, BitVec.extractLsb'_setWidth_of_le]
  rw [fieldByte] at hx placed ⊢
  rw [BitVec.extractLsb'_or, hx, placed, BitVec.ofNat_eq_ofNat, BitVec.zero_or]

/-- The count of `bse.pbits` leaves the foot of the word free (R76). -/
theorem fieldByte_cnt (c : BitVec 4) : fieldByte (0x11000000 ||| c.setWidth 32 <<< 8) = 0 := by
  have low : (c.setWidth 32 <<< 8).extractLsb' 0 8 = 0 := by
    ext i hi
    simp [hi]
  rw [fieldByte, BitVec.extractLsb'_or, low]
  rfl

/-- The count of `bse.pbits` is read back (R76). -/
theorem fieldCnt_pbits (val : Byte) (c : BitVec 4) :
    fieldCnt (0x11000000 ||| c.setWidth 32 <<< 8 ||| val.setWidth 32) = c := by
  have placed : (c.setWidth 32 <<< 8).extractLsb' 8 4 = c := by
    ext i hi
    simp [show 8 + i < 32 by omega, show i < 32 by omega, ← BitVec.getLsbD_eq_getElem, hi]
  rw [fieldCnt, BitVec.extractLsb'_or, BitVec.extractLsb'_or, placed,
    Laws.WordFields.extract_byte val 8 4 (Nat.le_refl 8)]
  simp

/-- The selector of `tb.read` is read back (R77). -/
theorem fieldSel_tbRead (sel : Bool) (idx : Byte) :
    fieldSel (0x30000000 ||| (if sel then 0x100 else 0) ||| idx.setWidth 32) = sel := by
  cases sel <;> simp [fieldSel]

/-- For every command there is a row that reads it back out of its own word. -/
theorem exists_row_read_encode (i : Instr) : ∃ r ∈ rows, r.read (encode i) = i := by
  cases i with
  | construct => exact ⟨rows[0], List.getElem_mem _, rfl⟩
  | bsePbit bit => exact ⟨rows[1], List.getElem_mem _, by cases bit <;> rfl⟩
  | bsePbits val cnt =>
    exact ⟨rows[2], List.getElem_mem _,
      congrArg₂ Instr.bsePbits (fieldByte_or val (fieldByte_cnt cnt)) (fieldCnt_pbits val cnt)⟩
  | bsePbyte byte => exact ⟨rows[3], List.getElem_mem _, congrArg Instr.bsePbyte (fieldByte_or byte rfl)⟩
  | bsePbytes => exact ⟨rows[4], List.getElem_mem _, rfl⟩
  | bseReset => exact ⟨rows[5], List.getElem_mem _, rfl⟩
  | bseResetv => exact ⟨rows[6], List.getElem_mem _, rfl⟩
  | bseInterim => exact ⟨rows[7], List.getElem_mem _, rfl⟩
  | bseChecksum => exact ⟨rows[8], List.getElem_mem _, rfl⟩
  | tdePbyte byte => exact ⟨rows[9], List.getElem_mem _, congrArg Instr.tdePbyte (fieldByte_or byte rfl)⟩
  | tdePbytes => exact ⟨rows[10], List.getElem_mem _, rfl⟩
  | tdeReset => exact ⟨rows[11], List.getElem_mem _, rfl⟩
  | tdeResetv => exact ⟨rows[12], List.getElem_mem _, rfl⟩
  | tdeInterim => exact ⟨rows[13], List.getElem_mem _, rfl⟩
  | tdeChecksum => exact ⟨rows[14], List.getElem_mem _, rfl⟩
  | tbRead sel idx =>
    exact ⟨rows[15], List.getElem_mem _,
      congrArg₂ Instr.tbRead (fieldSel_tbRead sel idx) (fieldByte_or idx (by cases sel <;> rfl))⟩
  | augCalc => exact ⟨rows[16], List.getElem_mem _, rfl⟩

/-- Settles O1: the row that reads the command back covers its word, because what a row reads it covers. -/
theorem decodeOfEncode : Obligations.DecodeOfEncode := by
  intro i
  obtain ⟨r, hr, read⟩ := exists_row_read_encode i
  have covered : r.covers (encode i) = true := by
    have := covers_encode_read hr (encode i)
    rwa [read] at this
  exact decode_eq_ok_iff.2 ⟨r, hr, covered, read⟩

/-- Settles O2: the row that covers the word reads a command whose word it is. -/
theorem encodeOfDecode : Obligations.EncodeOfDecode := by
  intro cw i h
  obtain ⟨r, hr, cr, rfl⟩ := decode_eq_ok_iff.1 h
  exact encode_read_of_covers hr cr

/-! ### The reserved words (R81) -/

/-- How many values `imm` may take under a unit and an op: none where the op is not defined (R73 to R79). -/
def immLimit (unit op : Nat) : Nat :=
  match unit with
  | 0 => if op = 1 then 1 else 0
  | 1 => if op = 0 then 2 else if op = 1 then 4096 else if op = 2 then 256 else if op < 8 then 1 else 0
  | 2 => if op < 2 then 0 else if op = 2 then 256 else if op < 8 then 1 else 0
  | 3 => if op = 0 then 512 else 0
  | 4 => if op = 0 then 1 else 0
  | _ => 0

/-- Where `imm` may take a value, a row has the unit and the op. -/
theorem exists_row_of_immLimit : ∀ unit op : Fin 16, immLimit unit op ≠ 0 →
    ∃ r ∈ rows, (r.pattern.extractLsb' 28 4).toNat = unit ∧ (r.pattern.extractLsb' 24 4).toNat = op := by
  decide

/-- What every row fixes: its unit, its op, a zero `rsv`, and zeros in `imm` above its operands (R73 to R79). -/
theorem rows_fixed_fields : ∀ r ∈ rows,
    r.mask.extractLsb' 28 4 = BitVec.allOnes 4 ∧ r.mask.extractLsb' 24 4 = BitVec.allOnes 4 ∧
    r.mask.extractLsb' 12 12 = BitVec.allOnes 12 ∧ r.pattern.extractLsb' 12 12 = 0 ∧
    r.pattern.extractLsb' 0 12 = 0 ∧
    ∃ k < 13, r.mask.extractLsb' 0 12 = BitVec.allOnes 12 <<< k ∧
      immLimit (r.pattern.extractLsb' 28 4).toNat (r.pattern.extractLsb' 24 4).toNat = 2 ^ k := by
  decide

/-- A value has no bit at or above `k` when it is below `2^k`. -/
theorem and_allOnes_shiftLeft_eq_zero_iff {w : Nat} (x : BitVec w) (k : Nat) :
    x &&& BitVec.allOnes w <<< k = 0 ↔ x.toNat < 2 ^ k := by
  have fits : x.toNat / 2 ^ k * 2 ^ k < 2 ^ w := (Nat.div_mul_le_self _ _).trans_lt x.isLt
  rw [← BitVec.shiftLeft_ushiftRight, ← BitVec.toNat_inj, BitVec.toNat_shiftLeft, BitVec.toNat_ushiftRight,
    Nat.shiftRight_eq_div_pow, Nat.shiftLeft_eq, Nat.mod_eq_of_lt fits]
  simp

/-- `unit`, `op`, `rsv` and `imm` are the whole word (R71). -/
theorem word_eq_iff_fields {x y : Word32} : x = y ↔
    x.extractLsb' 28 4 = y.extractLsb' 28 4 ∧ x.extractLsb' 24 4 = y.extractLsb' 24 4 ∧
    x.extractLsb' 12 12 = y.extractLsb' 12 12 ∧ x.extractLsb' 0 12 = y.extractLsb' 0 12 := by
  simp only [← BitVec.toNat_inj, BitVec.extractLsb'_toNat, Nat.shiftRight_eq_div_pow]
  omega

/-- A row covers the words with its unit and op, a zero `rsv`, and an `imm` its format allows (R79). -/
theorem covers_iff_fields {r : Row} (hr : r ∈ rows) (cw : Word32) : r.covers cw = true ↔
    cw.extractLsb' 28 4 = r.pattern.extractLsb' 28 4 ∧ cw.extractLsb' 24 4 = r.pattern.extractLsb' 24 4 ∧
    cw.extractLsb' 12 12 = 0 ∧
    (cw.extractLsb' 0 12).toNat < immLimit (cw.extractLsb' 28 4).toNat (cw.extractLsb' 24 4).toNat := by
  obtain ⟨unit, op, rsv, rsv_zero, imm_zero, k, -, imm, limit⟩ := rows_fixed_fields r hr
  simp only [covers_iff, word_eq_iff_fields (y := r.pattern), BitVec.extractLsb'_and, unit, op, rsv, rsv_zero, imm,
    imm_zero, BitVec.and_allOnes, and_allOnes_shiftLeft_eq_zero_iff]
  refine and_congr_right fun hu => and_congr_right fun ho => ?_
  rw [hu, ho, limit]

/-- Some row covers a word exactly when `rsv` is zero and `imm` is one its unit and op allow (R79). -/
theorem exists_covers_iff_fields (cw : Word32) : (∃ r ∈ rows, r.covers cw = true) ↔
    cw.extractLsb' 12 12 = 0 ∧
    (cw.extractLsb' 0 12).toNat < immLimit (cw.extractLsb' 28 4).toNat (cw.extractLsb' 24 4).toNat := by
  constructor
  · rintro ⟨r, hr, cr⟩
    obtain ⟨-, -, h⟩ := (covers_iff_fields hr cw).1 cr
    exact h
  · rintro ⟨rsv, imm⟩
    obtain ⟨r, hr, hu, ho⟩ := exists_row_of_immLimit (cw.extractLsb' 28 4).toFin (cw.extractLsb' 24 4).toFin
      (Nat.ne_zero_of_lt imm)
    exact ⟨r, hr, (covers_iff_fields hr cw).2
      ⟨BitVec.eq_of_toNat_eq hu.symm, BitVec.eq_of_toNat_eq ho.symm, rsv, imm⟩⟩

/-- Settles O4: the classes say, unit by unit, that `imm` is not below its limit or that `rsv` is not zero. -/
theorem illegalWordsAreTheReservedOnes : Obligations.IllegalWordsAreTheReservedOnes := by
  intro cw
  rw [exists_decode_eq_error_iff, exists_covers_iff_fields]
  have imm_lt : (cw.extractLsb' 0 12).toNat < 4096 := BitVec.isLt _
  generalize (cw.extractLsb' 28 4).toNat = unit, (cw.extractLsb' 24 4).toNat = op,
    (cw.extractLsb' 0 12).toNat = imm at imm_lt ⊢
  by_cases rsv : cw.extractLsb' 12 12 = 0
  · match unit with
    | 0 | 1 | 2 | 3 | 4 => simp [rsv, immLimit]; split_ifs <;> omega
    | unit + 5 => simp [immLimit]
  · simp only [rsv, false_and, not_false_eq_true, ne_eq, true_or, or_true]

/-! ### Words as the assembler writes them (R83) -/

/-- Two words add up when the first has no bit below bit `k` and the second none from there on. -/
theorem toNat_or_of_lt {x y : Word32} (k : Nat) (hx : 2 ^ k ∣ x.toNat) (hy : y.toNat < 2 ^ k) :
    (x ||| y).toNat = x.toNat + y.toNat := by
  obtain ⟨n, hn⟩ := hx
  rw [BitVec.toNat_or, hn, Nat.two_pow_add_eq_or_of_lt hy]

/-- A byte at the foot of a word adds its number (R75 to R77). -/
theorem toNat_or_byte {x : Word32} (b : Byte) (hx : 2 ^ 8 ∣ x.toNat) :
    (x ||| b.setWidth 32).toNat = x.toNat + b.toNat := by
  have hb : (b.setWidth 32).toNat = b.toNat := BitVec.toNat_setWidth_of_le (by decide)
  rw [toNat_or_of_lt 8 hx (hb ▸ b.isLt), hb]

/-- The count of `bse.pbits` adds 256 times its number (R76). -/
theorem toNat_or_cnt (c : BitVec 4) :
    (0x11000000 ||| c.setWidth 32 <<< 8 : Word32).toNat = 0x11000000 + c.toNat * 256 := by
  have placed : (c.setWidth 32 <<< 8).toNat = c.toNat * 256 := by
    simp [Nat.shiftLeft_eq]
    omega
  rw [toNat_or_of_lt 12 (by decide) (by omega), placed]
  rfl

/-- Settles O5: the operands share no bit with the match value or with each other. -/
theorem wordsAsAssembled : Obligations.WordsAsAssembled := by
  refine ⟨by decide, fun val cnt => ?_, fun byte => ?_, fun byte => ?_, fun sel idx => ?_⟩
  · have aligned : 2 ^ 8 ∣ (0x11000000 ||| cnt.setWidth 32 <<< 8 : Word32).toNat := by
      rw [toNat_or_cnt]
      omega
    exact (toNat_or_byte val aligned).trans (by rw [toNat_or_cnt])
  · exact toNat_or_byte byte (by decide)
  · exact toNat_or_byte byte (by decide)
  · cases sel <;> exact toNat_or_byte idx (by decide)

/-- Settles O6: ten closed words, run through the decoder. -/
theorem specWordsDecode : Obligations.SpecWordsDecode := by
  unfold Obligations.SpecWordsDecode
  decide

end Sys2Proof.Proofs

/-! ## The step of a command (30_encoding.md R70, R72, R80; 60_exceptions.md R182) -/

namespace Sys2Proof.Proofs

open Sys2Proof Sys2Proof.Machine Sys2Proof.Claims

section CommandStep

variable {p : Params} {b : Block p}

/-- A word that decodes is executed as the command it decodes to (R80). -/
theorem perform_command_ok {cw : Word32} {i : Instr} (h : decode cw = .ok i) :
    perform (.command cw) b = exec i ⟨p, b⟩ := by
  simp [perform, command, h]

/-- A word that does not decode is an illegal command (R80, R182). -/
theorem perform_command_error {cw : Word32} {e : Illegal} (h : decode cw = .error e) :
    perform (.command cw) b = illegalCommand cw b := by
  simp [perform, command, h]

/-- An illegal word is turned away in `FAULTED` and faults in every other mode (R182). -/
theorem illegalCommand_cases (cw : Word32) (b : Block p) :
    (b.mode = .faulted ∧ illegalCommand cw b = respondFaulted b) ∨
    (b.mode ≠ .faulted ∧ illegalCommand cw b = raiseFault b .illegal cw) := by
  cases h : b.mode <;> simp [illegalCommand, h]

/-- The commands that write a remainder answer `OK` (R22, R23, R79). -/
theorem returnsVal_of_writesRem {i : Instr} (h : writesBseRem i = true ∨ writesTdeRem i = true) :
    returnsVal i = false := by
  cases i <;> simp_all [writesBseRem, writesTdeRem, returnsVal]

end CommandStep

/-- Settles O7: a step performs the pending event, and a word that decodes is executed. -/
theorem stepRunsTheDecodedCommand : Obligations.StepRunsTheDecodedCommand :=
  ⟨fun _ _ _ _ _ hp hd => (step_event hp).trans (perform_command_ok hd), fun _ _ => step_idle⟩

/-- Settles O10: each effect of a command records one answer, of its row's kind, and so does an illegal word. -/
theorem commandAnswersOnce : Obligations.CommandAnswersOnce := by
  intro p b c cw rest hp hs
  rw [step_event hp] at hs
  cases hd : decode cw with
  | ok i =>
    rw [perform_command_ok hd] at hs
    obtain ⟨_, ⟨⟩, he⟩ := exec_effective i _ _ hs
    cases he with
    | turnedAway hm => exact ⟨_, rfl, hm⟩
    | faulted code cw hm => exact ⟨_, rfl, rfl⟩
    | latched hi hm hc => exact ⟨_, rfl, i, rfl, hi ▸ rfl⟩
    | wroteBse v hi hm => exact ⟨_, rfl, i, rfl, returnsVal_of_writesRem (.inl hi)⟩
    | wroteTde v hi hm => exact ⟨_, rfl, i, rfl, returnsVal_of_writesRem (.inr hi)⟩
    | returned v hi hm => exact ⟨_, rfl, ⟨i, rfl, hi⟩, rfl, rfl⟩
  | error e =>
    rw [perform_command_error hd] at hs
    obtain ⟨hm, answered⟩ | ⟨-, answered⟩ := illegalCommand_cases cw { b with pending := rest }
    · cases answered.symm.trans hs
      exact ⟨_, rfl, hm⟩
    · cases answered.symm.trans hs
      exact ⟨_, rfl, rfl⟩

end Sys2Proof.Proofs

/-! ## Programs as the assembler places them (30_encoding.md R83, R84) -/

namespace Sys2Proof.Proofs

open Sys2Proof Sys2Proof.Machine Sys2Proof.Claims

section Programs

variable {p : Params} {b : Block p}

/-- The index map of R34 selects the register it is given for. -/
theorem regAt_regIndex (r : RegName) : regAt (regIndex r) = some r := by cases r <;> rfl

/-- A run that meets a register write by name stages the value, when it fits (R39, R83). -/
theorem run_withProgram_wr (r : RegName) {v : Nat} (hv : v < 2 ^ regWidth p r) (es : List HostEvent) (k : Nat) :
    Sys2Proof.core.run (k + 1) ⟨p, b.withProgram (wr r v :: es)⟩ =
      Sys2Proof.core.run k ⟨p, (b.writeReg v r).withProgram es⟩ := by
  refine core_run_succ ?_ k
  rw [step_event rfl]
  refine (regWrite_fits (regAt_regIndex r) hv).trans ?_
  cases r <;> rfl

/-- A run that meets `construct` latches the staged parameters, when they pass the checks (R96). -/
theorem run_withProgram_construct (hm : b.mode ≠ .faulted) (hc : b.constructError = none) (es : List HostEvent)
    (k : Nat) :
    Sys2Proof.core.run (k + 1) ⟨p, b.withProgram (cmd .construct :: es)⟩ =
      Sys2Proof.core.run k ⟨p, (b.latch.answer .ok).withProgram es⟩ := by
  refine core_run_succ ?_ k
  rw [step_event rfl]
  exact (perform_command_ok (decodeOfEncode .construct)).trans (exec_construct_latch (b := b.withProgram es) hm hc)

/-- Values that fit a width the register can hold pass the checks of `construct` (R96). -/
theorem constructError_eq_none (hw : 1 ≤ b.cfgWidth.toNat) (hW : b.cfgWidth.toNat ≤ p.regw)
    (poly : b.cfgPoly.toNat < 2 ^ b.cfgWidth.toNat) (init : b.cfgInit.toNat < 2 ^ b.cfgWidth.toNat) :
    b.constructError = none := by
  have shifted_out {x : Word p} (hx : x.toNat < 2 ^ b.cfgWidth.toNat) : x >>> b.cfgWidth.toNat = 0 := by
    apply BitVec.eq_of_toNat_eq
    simp [Nat.shiftRight_eq_div_pow, Nat.div_eq_of_lt hx]
  have width : ¬ (b.cfgWidth.toNat < 1 ∨ p.regw < b.cfgWidth.toNat) := by omega
  simp only [Block.constructError, width, shifted_out poly, shifted_out init, ne_eq, not_true_eq_false, if_false]

/-- The block once the five register writes of `crc.setup` have been performed (R84). -/
def crcStaged (b : Block p) (width poly init xorout refin refout : Nat) : Block p :=
  { b with
    cfgWidth := BitVec.ofNat 32 width
    cfgPoly := BitVec.ofNat p.regw poly
    cfgInit := BitVec.ofNat p.regw init
    cfgXorout := BitVec.ofNat p.regw xorout
    cfgCtrl := BitVec.ofNat 2 (refin + 2 * refout) }

/-- The first five events of `crc.setup` stage its values, when they fit; `construct` is left to perform (R84). -/
theorem run_crcSetup {width poly init xorout refin refout : Nat} (hwidth : width < 2 ^ 32) (hpoly : poly < 2 ^ p.regw)
    (hinit : init < 2 ^ p.regw) (hxorout : xorout < 2 ^ p.regw) (hctrl : refin + 2 * refout < 2 ^ 32) (k : Nat) :
    Sys2Proof.core.run (k + 5) ⟨p, b.withProgram (expand (.crcSetup width poly init xorout refin refout))⟩ =
      Sys2Proof.core.run k ⟨p, (crcStaged b width poly init xorout refin refout).withProgram [cmd .construct]⟩ := by
  rw [expand, run_withProgram_wr .cfgWidth hwidth, run_withProgram_wr .cfgPoly hpoly,
    run_withProgram_wr .cfgInit hinit, run_withProgram_wr .cfgXorout hxorout, run_withProgram_wr .cfgCtrl hctrl]
  rfl

/-- The two flags in `CFG_CTRL` as `crc.setup` writes them (R28, R84). -/
theorem getLsbD_crcSetup_ctrl {refin refout : Nat} (hin : refin < 2) (hout : refout < 2) :
    (BitVec.ofNat 2 (refin + 2 * refout)).getLsbD 0 = (refin == 1) ∧
    (BitVec.ofNat 2 (refin + 2 * refout)).getLsbD 1 = (refout == 1) := by
  interval_cases refin <;> interval_cases refout <;> decide

end Programs

/-- Settles O59: five events stage the values, which pass the checks, and the sixth latches them. -/
theorem crcSetupConfigures : Obligations.CrcSetupConfigures := by
  intro p b width poly init xorout refin refout hm hp hw hW h32 hpoly hinit hxorout hin hout
  have fits : 2 ^ width ≤ 2 ^ p.regw := Nat.pow_le_pow_right (by decide) hW
  have poly_fits : poly < 2 ^ p.regw := hpoly.trans_le fits
  have init_fits : init < 2 ^ p.regw := hinit.trans_le fits
  have width_eq : (BitVec.ofNat 32 width).toNat = width := Nat.mod_eq_of_lt h32
  have poly_eq : (BitVec.ofNat p.regw poly).toNat = poly := Nat.mod_eq_of_lt poly_fits
  have init_eq : (BitVec.ofNat p.regw init).toNat = init := Nat.mod_eq_of_lt init_fits
  have xorout_eq : (BitVec.ofNat p.regw xorout).toNat = xorout := Nat.mod_eq_of_lt hxorout
  have passes : (crcStaged b width poly init xorout refin refout).constructError = none := by
    apply constructError_eq_none <;> simpa only [crcStaged, width_eq, poly_eq, init_eq]
  have not_faulted : (crcStaged b width poly init xorout refin refout).mode ≠ .faulted := hm
  refine ⟨(crcStaged b width poly init xorout refin refout).latch.answer .ok, ?_, hp, rfl, rfl, width_eq, poly_eq,
    init_eq, xorout_eq, getLsbD_crcSetup_ctrl hin hout⟩
  rw [run_crcSetup h32 poly_fits init_fits hxorout (by omega) 1]
  exact run_withProgram_construct not_faulted passes [] 0

end Sys2Proof.Proofs

/-! ## Masks, reflection and `construct` (40_primitives_and_construct.md R90 to R96) -/

namespace Sys2Proof.Proofs

open Sys2Proof Sys2Proof.Machine Sys2Proof.Claims

section Primitives

variable {W : Nat}

/-- The high mask is `2^(w-1)` (R90). -/
theorem toNat_highBitMask {w : Nat} (hw : 1 ≤ w) (hW : w ≤ W) : (highBitMask W w).toNat = 2 ^ (w - 1) := by
  have fits : 2 ^ (w - 1) < 2 ^ W := Nat.pow_lt_pow_right (by decide) (by omega)
  rw [highBitMask, ← BitVec.twoPow_eq, BitVec.toNat_twoPow, Nat.mod_eq_of_lt fits]

/-- The significant mask is `2^w - 1`, at the full capacity too (R91). -/
theorem toNat_significantBitsMask {w : Nat} (hW : w ≤ W) : (significantBitsMask W w).toNat = 2 ^ w - 1 := by
  have grows : 2 ^ w ≤ 2 ^ W := Nat.pow_le_pow_right (by decide) hW
  have positive : 0 < 2 ^ w := Nat.two_pow_pos w
  rw [← sig_eq, sig, BitVec.toNat_ofNat, Nat.mod_eq_of_lt (by omega)]

/-- A register without surplus bits holds a number below `2^w`. -/
theorem NoSurplus.toNat_lt {w : Nat} {x : BitVec W} (h : NoSurplus w x) : x.toNat < 2 ^ w :=
  Nat.lt_pow_two_of_testBit _ fun i hi => (BitVec.testBit_toNat x).trans (h i hi)

/-- Bit `i` goes to bit `bits-1-i` (R93). -/
theorem getLsbD_reflect_mirror (x : BitVec W) {bits i : Nat} (h : bits ≤ W) (hi : i < bits) :
    (reflect x bits).getLsbD (bits - 1 - i) = x.getLsbD i := by
  have inside : bits - 1 - i < bits := by omega
  have back : bits - 1 - (bits - 1 - i) = i := by omega
  rw [getLsbD_reflect x bits _ h, decide_eq_true inside, Bool.true_and, back]

/-- Reflecting twice keeps the low bits and nothing else (R95). -/
theorem reflect_reflect (x : BitVec W) {bits : Nat} (h : bits ≤ W) :
    reflect (reflect x bits) bits = x &&& significantBitsMask W bits := by
  refine BitVec.eq_of_getLsbD_eq fun i hW => ?_
  rw [getLsbD_reflect _ _ _ h, BitVec.getLsbD_and, getLsbD_significantBitsMask]
  by_cases hi : i < bits
  · simp [hi, hW, getLsbD_reflect_mirror x h hi]
  · simp [hi]

/-- Reflection is linear (R95). -/
theorem reflect_xor (x y : BitVec W) {bits : Nat} (h : bits ≤ W) :
    reflect (x ^^^ y) bits = reflect x bits ^^^ reflect y bits := by
  refine BitVec.eq_of_getLsbD_eq fun i _ => ?_
  simp only [BitVec.getLsbD_xor, getLsbD_reflect _ _ _ h, Bool.and_xor_distrib_left]

/-- A register shifted down by `n` is not zero exactly when it holds at least `2^n`, as R96 tests a value's width. -/
theorem ushiftRight_ne_zero_iff {x : BitVec W} {n : Nat} : x >>> n ≠ 0 ↔ 2 ^ n ≤ x.toNat := by
  rw [ne_eq, ← BitVec.toNat_inj, BitVec.toNat_ushiftRight, BitVec.ofNat_eq_ofNat, BitVec.toNat_ofNat, Nat.zero_mod,
    Nat.shiftRight_eq_div_pow, Nat.div_eq_zero_iff_lt (Nat.two_pow_pos n), Nat.not_lt]

end Primitives

section Construct

variable {p : Params} {b : Block p}

/-- A width of 0 or above the capacity is `ERR_WIDTH` (R96). -/
theorem constructError_width (h : b.cfgWidth.toNat = 0 ∨ p.regw < b.cfgWidth.toNat) :
    b.constructError = some .width :=
  if_pos (h.imp_left (by omega))

/-- Under a width in range, a polynomial or an initial remainder too wide for it is `ERR_PARAM` (R96). -/
theorem constructError_param (hw : 1 ≤ b.cfgWidth.toNat) (hW : b.cfgWidth.toNat ≤ p.regw)
    (h : 2 ^ b.cfgWidth.toNat ≤ b.cfgPoly.toNat ∨ 2 ^ b.cfgWidth.toNat ≤ b.cfgInit.toNat) :
    b.constructError = some .param := by
  have in_range : ¬ (b.cfgWidth.toNat < 1 ∨ p.regw < b.cfgWidth.toNat) := by omega
  rw [Block.constructError, if_neg in_range]
  by_cases poly : b.cfgPoly >>> b.cfgWidth.toNat ≠ 0
  · rw [if_pos poly]
  · have init : 2 ^ b.cfgWidth.toNat ≤ b.cfgInit.toNat := h.resolve_left (mt ushiftRight_ne_zero_iff.2 poly)
    rw [if_neg poly, if_pos (ushiftRight_ne_zero_iff.2 init)]

/-- A failed check of `construct` leaves the statements' faulted block (R96, R183). -/
theorem exec_construct_eq_faulted {code : ErrCode} (hm : b.mode ≠ .faulted) (hc : b.constructError = some code) :
    exec .construct ⟨p, b⟩ = .next ⟨p, faulted b code 0x01000000⟩ := exec_construct_error hm hc

end Construct

/-- Settles O22: the checks decide between latching and the two faults. -/
theorem constructLatchesOrFaults : Obligations.ConstructLatchesOrFaults :=
  ⟨rfl, fun _ _ hm =>
    ⟨fun hw hW poly init => exec_construct_latch hm (constructError_eq_none hw hW poly init),
      fun h => exec_construct_eq_faulted hm (constructError_width h),
      fun hw hW h => exec_construct_eq_faulted hm (constructError_param hw hW h)⟩⟩

/-- Settles O27: everything is read off the bits of a reflection. -/
theorem reflectProperties : Obligations.ReflectProperties := by
  intro W bits x y _ hW
  rw [sig_eq]
  exact ⟨fun _ => getLsbD_reflect_mirror x hW, fun j => getLsbD_reflect x bits j hW, reflect_reflect x hW,
    (noSurplus_reflect hW x).toNat_lt, reflect_xor x y hW⟩

/-- Settles O28: the two masks are the numbers the spec names. -/
theorem maskValues : Obligations.MaskValues := fun _ _ hw hW =>
  ⟨toNat_highBitMask hw hW, toNat_significantBitsMask hW⟩

end Sys2Proof.Proofs

/-! ## The Bit-Serial Engine (41_bit_serial_engine.md R110 to R118) -/

namespace Sys2Proof.Proofs

open Sys2Proof Sys2Proof.Machine Sys2Proof.Claims

section BitSerial

variable {W : Nat} {p : Params} {b : Block p}

/-! ### The statements' division is the model's -/

/-- The statements' high mask is the model's (R90). -/
theorem high_eq (W w : Nat) : high W w = highBitMask W w := by
  rw [high, highBitMask, ← BitVec.twoPow_eq]
  exact BitVec.eq_of_toNat_eq (by rw [BitVec.toNat_ofNat, BitVec.toNat_twoPow])

/-- The division flag of R111 is bit `w-1` at every width: where the register has no such bit, the high mask is 0. -/
theorem and_highBitMask_ne_zero_eq_getLsbD (w : Nat) (x : BitVec W) :
    (x &&& highBitMask W w != 0) = x.getLsbD (w - 1) := by
  rw [highBitMask, ← BitVec.twoPow_eq, BitVec.and_twoPow]
  cases hx : x.getLsbD (w - 1) with
  | false => simp
  | true =>
    have inside : w - 1 < W := BitVec.lt_of_getLsbD hx
    have masked : BitVec.twoPow W (w - 1) ≠ 0 := fun h => by
      simpa [inside] using congrArg (·.getLsbD (w - 1)) h
    simpa using masked

/-- The division step as R111 words it is the model's bit step. -/
theorem divisionStep_eq_bitStep (w : Nat) (poly : BitVec W) : divisionStep w poly = bitStep w poly := by
  funext rem bit
  simp only [divisionStep, bitStep, high_eq, and_highBitMask_ne_zero_eq_getLsbD]

/-- The left-aligned low `cnt` bits of a byte enter from bit `cnt-1` down to bit 0, and no other bit does (R112). -/
theorem processBits_eq_foldl (w : Nat) (poly rem : BitVec W) (val : Byte) {cnt : Nat} (h : cnt ≤ 8) :
    processBits w poly rem val cnt = ((List.range cnt).reverse.map val.getLsbD).foldl (bitStep w poly) rem := by
  unfold processBits
  induction cnt generalizing rem with
  | zero => rfl
  | succ cnt ih =>
    have first : (val <<< (8 - (cnt + 1))).getLsbD 7 = val.getLsbD cnt := by
      have kept : ¬ 7 < 8 - (cnt + 1) := by omega
      rw [BitVec.getLsbD_shiftLeft, decide_eq_false kept, show 7 - (8 - (cnt + 1)) = cnt by omega]
      rfl
    have shifted : val <<< (8 - (cnt + 1)) <<< 1 = val <<< (8 - cnt) := by
      rw [← BitVec.shiftLeft_add, show 8 - (cnt + 1) + 1 = 8 - cnt by omega]
    rw [feedTopBits, first, shifted, ih _ (by omega), List.range_succ, List.reverse_concat, List.map_cons,
      List.foldl_cons]

/-- Feeding a byte, reflected first when `refin` is set, is feeding its bits in the order R113 names. -/
theorem divideInOrder_eq_bseByte (w : Nat) (poly : BitVec W) (refin : Bool) :
    divideInOrder w poly refin = bseByte w poly refin := by
  funext rem byte
  rw [divideInOrder, divisionStep_eq_bitStep, bitsInOrder, List.foldl_map]
  cases refin with
  | false => rfl
  | true => simp [bseByte, divideByte]

/-! ### The commands in `READY` -/

/-- In `READY`, `bse.pbyte` divides the byte into `BSE_REM` (R113). -/
theorem exec_bsePbyte_ready (hm : b.mode = .ready) (byte : Byte) :
    exec (.bsePbyte byte) ⟨p, b⟩ = respondOk (b.withBseRem (bseByte b.width b.pPoly b.pRefin b.bseRem byte)) :=
  whenReady_ready hm

/-- In `READY`, `tde.pbyte` takes the byte into `TDE_REM` (R143). -/
theorem exec_tdePbyte_ready (hm : b.mode = .ready) (byte : Byte) :
    exec (.tdePbyte byte) ⟨p, b⟩ = respondOk (b.withTdeRem (tdeByte b.width b.tdeTable b.pRefin b.tdeRem byte)) :=
  whenReady_ready hm

/-- In `READY`, `bse.pbytes` folds the bytes of its range into `BSE_REM` (R114). -/
theorem exec_bsePbytes_holds (hm : b.mode = .ready) {bytes : List Byte} (h : b.RangeHolds bytes) :
    exec .bsePbytes ⟨p, b⟩ =
      respondOk (b.withBseRem (bytes.foldl (bseByte b.width b.pPoly b.pRefin) b.bseRem)) :=
  (whenReady_ready hm).trans (withMessage_holds h)

/-- In `READY`, `tde.pbytes` folds the bytes of its range into `TDE_REM` (R144). -/
theorem exec_tdePbytes_holds (hm : b.mode = .ready) {bytes : List Byte} (h : b.RangeHolds bytes) :
    exec .tdePbytes ⟨p, b⟩ =
      respondOk (b.withTdeRem (bytes.foldl (tdeByte b.width b.tdeTable b.pRefin) b.tdeRem)) :=
  (whenReady_ready hm).trans (withMessage_holds h)

/-- A range command whose range leaves the buffer faults before it reads a byte (R58). -/
theorem withMessage_outside (i : Instr) (use : List Byte → Outcome)
    (h : p.bufsz < b.argOff.toNat + b.argSize.toNat) : withMessage i b use = raiseFault b .range (encode i) := by
  simp [withMessage, Block.rangeOk, h]

/-! ### A range command and the sequence of its byte commands -/

/-- The block with another list of received answers. -/
def withAnswers (b : Block p) (l : List (Answer p)) : Block p := { b with answers := l }

/-- `byteCmd` is the byte command of an engine that computes `f`: `put` gives the block each value of the engine's
remainder, and the command answers `OK` on the block with the next one, whatever was answered before. -/
def TakesByte (byteCmd : Byte → Instr) (put : Word p → Block p) (f : Word p → Byte → Word p) : Prop :=
  ∀ (rem : Word p) (l : List (Answer p)) (byte : Byte),
    exec (byteCmd byte) ⟨p, withAnswers (put rem) l⟩ = .next ⟨p, withAnswers (put (f rem byte)) (.ok :: l)⟩

/-- A sequence of byte commands folds the bytes into the remainder, and only the answers show how many there were. -/
theorem TakesByte.runCommands_map {byteCmd : Byte → Instr} {put : Word p → Block p} {f : Word p → Byte → Word p}
    (h : TakesByte byteCmd put f) (bytes : List Byte) (rem : Word p) (l : List (Answer p)) :
    ∃ l', runCommands (bytes.map byteCmd) ⟨p, withAnswers (put rem) l⟩ =
      .next ⟨p, withAnswers (put (bytes.foldl f rem)) l'⟩ := by
  induction bytes generalizing rem l with
  | nil => exact ⟨l, rfl⟩
  | cons byte bytes ih =>
    obtain ⟨l', run⟩ := ih (f rem byte) (.ok :: l)
    exact ⟨l', by rw [List.map_cons, runCommands, h rem l byte]; exact run⟩

/-- `bse.pbyte` is the byte command of the Bit-Serial Engine (R113). -/
theorem takesByte_bsePbyte (hm : b.mode = .ready) :
    TakesByte .bsePbyte b.withBseRem (bseByte b.width b.pPoly b.pRefin) :=
  fun rem l byte => exec_bsePbyte_ready (b := withAnswers (b.withBseRem rem) l) hm byte

/-- `tde.pbyte` is the byte command of the Table-Driven Engine (R143). -/
theorem takesByte_tdePbyte (hm : b.mode = .ready) :
    TakesByte .tdePbyte b.withTdeRem (tdeByte b.width b.tdeTable b.pRefin) :=
  fun rem l byte => exec_tdePbyte_ready (b := withAnswers (b.withTdeRem rem) l) hm byte

end BitSerial

/-- Settles O30: the count decides between feeding the left-aligned bits and the fault. -/
theorem bsePbitsFeedsTheLowBits : Obligations.BsePbitsFeedsTheLowBits := by
  intro p b val cnt hm
  obtain ⟨-, word, -⟩ := wordsAsAssembled
  refine ⟨word val cnt, fun hcnt => ?_, fun hcnt => ?_⟩
  · rw [divisionStep_eq_bitStep, ← processBits_eq_foldl _ _ _ _ hcnt]
    exact (whenReady_ready hm).trans (if_neg (Nat.not_lt.2 hcnt))
  · exact (whenReady_ready hm).trans (if_pos hcnt)

/-- Settles O31: the model's byte step feeds the bits in the order of R113. -/
theorem bsePbyteDividesInBitOrder : Obligations.BsePbyteDividesInBitOrder := by
  intro p b byte hm
  obtain ⟨-, -, word, -⟩ := wordsAsAssembled
  refine ⟨word byte, ?_⟩
  rw [divideInOrder_eq_bseByte]
  exact exec_bsePbyte_ready hm byte

/-- Settles O32: the range holds the bytes, which are folded, or leaves the buffer. -/
theorem bsePbytesFoldsTheRange : Obligations.BsePbytesFoldsTheRange := by
  refine ⟨rfl, fun p b bytes hm held => ?_, fun p b hm outside => ?_⟩
  · rw [divideInOrder_eq_bseByte]
    exact exec_bsePbytes_holds hm held
  · exact (whenReady_ready hm).trans (withMessage_outside .bsePbytes _ outside)

/-- Settles O36: either engine's sequence of byte commands folds the bytes as its range command does. -/
theorem rangeCommandIsASequenceOfBytes : Obligations.RangeCommandIsASequenceOfBytes := by
  intro p b bytes hm held
  obtain ⟨_, bse⟩ := (takesByte_bsePbyte hm).runCommands_map bytes b.bseRem b.answers
  obtain ⟨_, tde⟩ := (takesByte_tdePbyte hm).runCommands_map bytes b.tdeRem b.answers
  exact ⟨⟨_, _, exec_bsePbytes_holds hm held, bse, rfl⟩, ⟨_, _, exec_tdePbytes_holds hm held, tde, rfl⟩⟩

/-- Settles O29: the model's bit step is the division step of R111. -/
theorem bsePbitDivides : Obligations.BsePbitDivides := by
  intro p b bit hm
  obtain ⟨word, -⟩ := wordsAsAssembled
  refine ⟨word bit, ?_⟩
  rw [divisionStep_eq_bitStep]
  exact whenReady_ready hm

/-- Settles O33: each reset is its own rule in `READY`. -/
theorem bseResetsLoadNaturalValues : Obligations.BseResetsLoadNaturalValues :=
  ⟨rfl, rfl, fun _ _ hm => ⟨whenReady_ready hm, whenReady_ready hm⟩⟩

/-- Settles O34: the mask of R117 is the model's `SIG`. -/
theorem bseInterimReturnsTheRemainder : Obligations.BseInterimReturnsTheRemainder := by
  refine ⟨rfl, fun p b hm => ?_⟩
  rw [sig_eq]
  exact whenReady_ready hm

/-- Settles O35: the reflection of R118 is the model's helper at `P_REFOUT`, and its mask the model's `SIG`. -/
theorem bseChecksumFinalizes : Obligations.BseChecksumFinalizes := by
  refine ⟨rfl, fun p b hm => ?_⟩
  rw [sig_eq]
  exact whenReady_ready hm

end Sys2Proof.Proofs

/-! ## The Table Builder (42_table_builder.md R130 to R136) -/

namespace Sys2Proof.Proofs

open Sys2Proof Sys2Proof.Machine Sys2Proof.Claims

section TableBuilder

variable {W w : Nat}

/-! ### The entry of a dividend -/

/-- The statements' entry of a built table is the model's (R130). -/
theorem entryAt_buildTable (w : Nat) (poly : BitVec W) (r : Bool) (d : Byte) :
    entryAt (buildTable w poly r) d.toNat = tableEntry w poly r d := by
  rw [entryAt_toNat, readEntry_buildTable]

/-- The inner loop of R130 is eight of the model's bit steps from zero. -/
theorem partialRemainder_eq_divideByte (w : Nat) (poly : BitVec W) (d : Byte) :
    partialRemainder w poly d = divideByte w poly 0 d := by
  rw [divideByte, ← divisionStep_eq_bitStep]
  rfl

/-- Reflecting a byte twice gives it back (R95). -/
theorem reflect_reflect_byte (d : Byte) : reflect (reflect d 8) 8 = d := by
  have full : significantBitsMask 8 8 = BitVec.allOnes 8 := by decide
  rw [reflect_reflect d (Nat.le_refl 8), full, BitVec.and_allOnes]

/-- The reflected table is the unreflected one, reflected in index and value (R134). -/
theorem tableEntry_reflect (w : Nat) (poly : BitVec W) (d : Byte) :
    tableEntry w poly true (reflect d 8) = reflect (tableEntry w poly false d) w := by
  simp only [tableEntry, if_true, reflect_reflect_byte, Bool.false_eq_true, if_false]

/-! ### Linearity -/

/-- A bit step is linear in the remainder and the bit together (R111). -/
theorem bitStep_xor (hw : 1 ≤ w) (hW : w ≤ W) (poly x y : BitVec W) (a b : Bool) :
    bitStep w poly (x ^^^ y) (a ^^ b) = bitStep w poly x a ^^^ bitStep w poly y b := by
  refine BitVec.eq_of_getLsbD_eq fun i _ => ?_
  simp only [BitVec.getLsbD_xor, getLsbD_bitStep _ _ _ _ _ hw hW, Bool.and_xor_distrib_right,
    Bool.and_xor_distrib_left, Bool.xor_assoc, Bool.xor_comm, Bool.xor_left_comm]

/-- Dividing a byte is linear in the remainder and the byte together (R113). -/
theorem divideByte_xor (hw : 1 ≤ w) (hW : w ≤ W) (poly x y : BitVec W) (a b : Byte) :
    divideByte w poly (x ^^^ y) (a ^^^ b) = divideByte w poly x a ^^^ divideByte w poly y b := by
  unfold divideByte
  generalize [7, 6, 5, 4, 3, 2, 1, 0] = places
  induction places generalizing x y with
  | nil => rfl
  | cons k places ih => rw [List.foldl_cons, BitVec.getLsbD_xor, bitStep_xor hw hW, ih]; rfl

/-- The table is linear over XOR (R134). -/
theorem tableEntry_xor (hw : 1 ≤ w) (hW : w ≤ W) (poly : BitVec W) (r : Bool) (a b : Byte) :
    tableEntry w poly r (a ^^^ b) = tableEntry w poly r a ^^^ tableEntry w poly r b := by
  have divided (a b : Byte) : divideByte w poly 0 (a ^^^ b) = divideByte w poly 0 a ^^^ divideByte w poly 0 b := by
    simpa using divideByte_xor hw hW poly 0 0 a b
  cases r with
  | false => exact divided a b
  | true => simp only [tableEntry, if_true, reflect_xor _ _ (Nat.le_refl 8), divided, reflect_xor _ _ hW]

/-- Entry 0 is 0, by linearity (R134). -/
theorem tableEntry_zero (hw : 1 ≤ w) (hW : w ≤ W) (poly : BitVec W) (r : Bool) : tableEntry w poly r 0 = 0 := by
  simpa using tableEntry_xor hw hW poly r 0 0

/-! ### The entry of 1 -/

/-- A zero bit leaves a zero remainder at zero (R111). -/
theorem bitStep_zero_false (w : Nat) (poly : BitVec W) : bitStep w poly 0#W false = 0#W := by
  simp [bitStep]

/-- Only the last step of dividing 1 feeds a one (R130). -/
theorem divideByte_zero_one (w : Nat) (poly : BitVec W) : divideByte w poly 0 1 = bitStep w poly 0 true := by
  have last : ([7, 6, 5, 4, 3, 2, 1, 0].map (1 : Byte).getLsbD) = List.replicate 7 false ++ [true] := by decide
  rw [divideByte, ← List.foldl_map (f := (1 : Byte).getLsbD), last]
  simp [List.replicate, bitStep_zero_false]

/-- A one fed into a zero remainder brings the polynomial in, and else only a surplus bit (R111). -/
theorem bitStep_zero_true_masked (hw : 1 ≤ w) (hW : w ≤ W) {poly : BitVec W} (h : NoSurplus w poly) :
    bitStep w poly 0 true &&& significantBitsMask W w = poly := by
  refine BitVec.eq_of_getLsbD_eq fun i hi => ?_
  rw [BitVec.getLsbD_and, getLsbD_significantBitsMask, getLsbD_bitStep _ _ _ _ _ hw hW]
  by_cases low : i < w
  · simp [low, hi, Nat.ne_of_lt low]
  · simp [low, h i (Nat.not_lt.1 low)]

/-! ### The zero polynomial -/

/-- Bit `i` of a number moved above the width. -/
theorem getLsbD_ofNat_shiftLeft (n : Nat) {i : Nat} (hi : i < W) :
    (BitVec.ofNat W n <<< w).getLsbD i = (decide (w ≤ i) && n.testBit (i - w)) := by
  have inside : i - w < W := by omega
  simp only [BitVec.getLsbD_shiftLeft, BitVec.getLsbD_ofNat, hi, inside, decide_true, Bool.true_and, ← decide_not,
    Nat.not_lt]

/-- With a zero polynomial a bit step appends the bit to the quotient, which stands above the width (R136). -/
theorem bitStep_zeroPoly_shiftLeft (hw : 1 ≤ w) (hW : w ≤ W) (n : Nat) (bit : Bool) :
    bitStep w 0#W (BitVec.ofNat W n <<< w) bit = BitVec.ofNat W (Nat.bit bit n) <<< w := by
  refine BitVec.eq_of_getLsbD_eq fun i hi => ?_
  have before : i - 1 < W := by omega
  rw [getLsbD_bitStep _ _ _ _ _ hw hW, getLsbD_ofNat_shiftLeft n before, getLsbD_ofNat_shiftLeft _ hi,
    BitVec.getLsbD_zero, Bool.and_false, Bool.xor_false]
  obtain below | rfl | above := Nat.lt_trichotomy i w
  · have out : ¬ w ≤ i - 1 := by omega
    simp [out, Nat.not_le.2 below, Nat.ne_of_lt below]
  · have out : ¬ i ≤ i - 1 := by omega
    simp [out, hw, hi]
  · obtain ⟨k, rfl⟩ := Nat.exists_eq_add_of_lt above
    have place : w + k + 1 - w = k + 1 := by omega
    have other : w + k + 1 ≠ w := by omega
    simp [place, other, hi, Nat.le_of_lt above, Nat.testBit_bit_succ]

/-- The bits of a byte, most significant first, append up to its number. -/
theorem foldl_bit_getLsbD : ∀ d : Byte,
    [7, 6, 5, 4, 3, 2, 1, 0].foldl (fun n k => Nat.bit (d.getLsbD k) n) 0 = d.toNat := by decide

/-- With a zero polynomial the remainder is the whole dividend, moved above the width (R136). -/
theorem divideByte_zeroPoly (hw : 1 ≤ w) (hW : w ≤ W) (d : Byte) :
    divideByte w (0 : BitVec W) 0 d = d.setWidth W <<< w := by
  have folds := List.foldl_hom (fun n => BitVec.ofNat W n <<< w) (g₁ := fun n k => Nat.bit (d.getLsbD k) n)
    (g₂ := fun rem k => bitStep w 0 rem (d.getLsbD k)) (l := [7, 6, 5, 4, 3, 2, 1, 0]) (init := 0)
    fun n k => bitStep_zeroPoly_shiftLeft hw hW n (d.getLsbD k)
  rw [foldl_bit_getLsbD] at folds
  simpa [divideByte] using folds

/-- Nothing of a value moved above the width is reflected (R93). -/
theorem reflect_shiftLeft_eq_zero (hW : w ≤ W) (x : BitVec W) : reflect (x <<< w) w = 0 := by
  refine BitVec.eq_of_getLsbD_eq fun i _ => ?_
  rw [getLsbD_reflect _ _ _ hW, BitVec.getLsbD_shiftLeft]
  by_cases hi : i < w
  · have inside : w - 1 - i < w := by omega
    simp [inside]
  · simp [hi]

/-! ### The Bit-Serial Engine computes an unreflected entry -/

/-- From `READY`, `bse.resetv` and a sequence of `bse.pbyte` divide the bytes into `ARG_A` (R113, R116). -/
theorem runCommands_bseResetv_map {p : Params} {b : Block p} (hm : b.mode = .ready) (bytes : List Byte) :
    ∃ l, runCommands (.bseResetv :: bytes.map .bsePbyte) ⟨p, b⟩ =
      .next ⟨p, withAnswers (b.withBseRem (bytes.foldl (bseByte b.width b.pPoly b.pRefin) b.argA)) l⟩ := by
  obtain ⟨l, run⟩ := (takesByte_bsePbyte hm).runCommands_map bytes b.argA (.ok :: b.answers)
  have resetv : exec .bseResetv ⟨p, b⟩ = respondOk (b.withBseRem b.argA) := whenReady_ready hm
  exact ⟨l, by rw [runCommands, resetv]; exact run⟩

end TableBuilder

/-- Settles O26: the entry and the mask of R133 are the model's. -/
theorem tbReadReturnsTheMaskedEntry : Obligations.TbReadReturnsTheMaskedEntry := by
  intro p b sel idx hm
  obtain ⟨-, -, -, -, word⟩ := wordsAsAssembled
  refine ⟨word sel idx, ?_⟩
  rw [sig_eq, entryAt_toNat]
  exact whenReady_ready hm

/-- Settles O23: the loop of R130 divides each dividend, and its reflected index is reflected back. -/
theorem tableHoldsPartialRemainders : Obligations.TableHoldsPartialRemainders := by
  intro W w poly _ _ _ _ d
  rw [entryAt_buildTable, entryAt_buildTable, partialRemainder_eq_divideByte, tableEntry_reflect]
  exact ⟨rfl, rfl⟩

/-- Settles O24: (a) and (d) are linearity, (c) reflects the index back, (b) and (e) divide from zero. -/
theorem tableIdentities : Obligations.TableIdentities := by
  refine ⟨fun W w poly _ hw hW fits => ⟨fun r => ?_, fun d => ?_, fun r a b => ?_, ?_⟩, fun p b d hm href harg => ?_⟩
  · exact (entryAt_buildTable w poly r 0).trans (tableEntry_zero hw hW poly r)
  · rw [entryAt_buildTable, entryAt_buildTable, tableEntry_reflect]
  · simp only [entryAt_buildTable, tableEntry_xor hw hW]
  · have entry : entryAt (buildTable w poly false) 1 = divideByte w poly 0 1 := entryAt_buildTable w poly false 1
    rw [entry, divideByte_zero_one, sig_eq, bitStep_zero_true_masked hw hW (noSurplus_of_lt fits)]
  · obtain ⟨_, run⟩ := runCommands_bseResetv_map hm [d]
    refine ⟨_, run, ?_⟩
    rw [entryAt_buildTable, href, harg]
    rfl

/-- Settles O25: the dividend is moved above the width, where no reflection reads it. -/
theorem zeroPolynomialTable : Obligations.ZeroPolynomialTable := by
  intro W w _ hw hW d
  rw [entryAt_buildTable, entryAt_buildTable]
  refine ⟨divideByte_zeroPoly hw hW d, ?_⟩
  simp only [tableEntry, if_true, divideByte_zeroPoly hw hW, reflect_shiftLeft_eq_zero hW]

end Sys2Proof.Proofs

/-! ## The Table-Driven Engine (43_table_driven_engine.md R140 to R152) -/

namespace Sys2Proof.Proofs

open Sys2Proof Sys2Proof.Machine Sys2Proof.Claims

section TableDriven

variable {W w : Nat} {p : Params} {b : Block p}

/-! ### The index of a byte -/

/-- The low byte of a register with a byte XORed in. -/
theorem setWidth_xor_byte (h : 8 ≤ W) (x : BitVec W) (v : Byte) :
    (x ^^^ v.setWidth W).setWidth 8 = x.setWidth 8 ^^^ v := by
  rw [BitVec.setWidth_xor, BitVec.setWidth_setWidth_of_le _ h, BitVec.setWidth_eq]

/-- Reflected, the index is the low byte of the remainder, the byte XORed in (R141). -/
theorem tableIndex_reflected (h : 8 ≤ W) (x : BitVec W) (v : Byte) :
    tableIndex w x v true = x.setWidth 8 ^^^ v := setWidth_xor_byte h x v

/-- Unreflected, a remainder of more than 8 bits gives its top byte (R141). -/
theorem tableIndex_wide (h : 8 ≤ W) (hw : 8 < w) (x : BitVec W) (v : Byte) :
    tableIndex w x v false = (x >>> (w - 8)).setWidth 8 ^^^ v := by
  rw [← setWidth_xor_byte h]
  simp only [tableIndex, Bool.false_eq_true, if_false, hw, if_true]

/-- Unreflected, a remainder of at most 8 bits gives all its bits, moved to the top of the byte (R141). -/
theorem tableIndex_narrow (h : 8 ≤ W) (hw : ¬ 8 < w) (x : BitVec W) (v : Byte) :
    tableIndex w x v false = (x <<< (8 - w)).setWidth 8 ^^^ v := by
  rw [← setWidth_xor_byte h]
  simp only [tableIndex, Bool.false_eq_true, if_false, hw]

/-- The entry at a number XORed with a byte is the entry at the low byte (R141, R186). -/
theorem entryAt_xor_byte (t : Table W) (x : BitVec W) (v : Byte) :
    entryAt t (x.toNat ^^^ v.toNat) = readEntry t (x.setWidth 8 ^^^ v) := by
  have low : (x.toNat ^^^ v.toNat) % 2 ^ 8 = (x.setWidth 8 ^^^ v).toNat := by
    rw [BitVec.toNat_xor, BitVec.toNat_setWidth, Nat.xor_mod_two_pow, Nat.mod_eq_of_lt v.isLt]
  simp only [entryAt, readEntry, ← low, Nat.reducePow]

/-- The statements' byte step is the model's (R141 to R143). -/
theorem tableStep_eq_tdeByte (h : 8 ≤ W) (w : Nat) (t : Table W) (refin : Bool) :
    tableStep w t refin = tdeByte w t refin := by
  funext x v
  cases refin with
  | true => simp only [tableStep, tdeByte, tableShift, tableIndex_reflected h, entryAt_xor_byte, if_true]
  | false =>
    by_cases hw : 8 < w
    · simp only [tableStep, tdeByte, tableShift, tableIndex_wide h hw, entryAt_xor_byte, hw, if_true,
        Bool.false_eq_true, if_false]
    · simp only [tableStep, tdeByte, tableShift, tableIndex_narrow h hw, entryAt_xor_byte, hw, Bool.false_eq_true,
        if_false]

/-- The byte enters the index by XOR, in every case of R141. -/
theorem tableIndex_eq_xor (h : 8 ≤ W) (x : BitVec W) (v : Byte) (refin : Bool) :
    tableIndex w x v refin = tableIndex w x 0 refin ^^^ v := by
  cases refin with
  | true => simp [tableIndex_reflected h]
  | false =>
    by_cases hw : 8 < w
    · simp [tableIndex_wide h hw]
    · simp [tableIndex_narrow h hw]

/-- Unreflected, the index of a zero byte holds, from its bit 7 down, the bits that reach place `w-1` of the remainder
as it moves up (R141). -/
theorem getLsbD_tableIndex_zero (hw : 1 ≤ w) (hW : w ≤ W) (h : 8 ≤ W) (x : BitVec W) {k : Nat} (hk : k < 8) :
    (tableIndex w x 0 false).getLsbD (7 - k) = (x <<< k).getLsbD (w - 1) := by
  have top : w - 1 < W := by omega
  have byte : 7 - k < 8 := by omega
  rw [BitVec.getLsbD_shiftLeft]
  by_cases wide : 8 < w
  · have place : w - 8 + (7 - k) = w - 1 - k := by omega
    have moved : ¬ w - 1 < k := by omega
    rw [tableIndex_wide h wide]
    simp [place, moved, top, byte]
  · have inside : 7 - k < W := by omega
    have place : 7 - k - (8 - w) = w - 1 - k := by omega
    have edge : 7 - k < 8 - w ↔ w - 1 < k := by omega
    rw [tableIndex_narrow h wide, BitVec.getLsbD_xor, BitVec.getLsbD_setWidth, BitVec.getLsbD_shiftLeft]
    simp [place, edge, top, byte, inside]

/-! ### One table step is eight bit steps -/

theorem SameBits.refl (w : Nat) (x : BitVec W) : SameBits w x x := fun _ _ => rfl

theorem SameBits.symm {x y : BitVec W} (h : SameBits w x y) : SameBits w y x := fun i hi => (h i hi).symm

theorem SameBits.trans {x y z : BitVec W} (h : SameBits w x y) (h' : SameBits w y z) : SameBits w x z :=
  fun i hi => (h i hi).trans (h' i hi)

/-- A mask compares the bits below the width, and no others. -/
theorem and_significantBitsMask_eq_iff (hW : w ≤ W) {x y : BitVec W} :
    x &&& significantBitsMask W w = y &&& significantBitsMask W w ↔ SameBits w x y := by
  refine ⟨fun masked i hi => ?_, fun h => BitVec.eq_of_toNat_eq (h.masked hW hW)⟩
  have inside : i < W := by omega
  simpa [hi, inside] using congrArg (·.getLsbD i) masked

/-- A remainder without surplus bits is its own masked value. -/
theorem NoSurplus.and_significantBitsMask {x : BitVec W} (h : NoSurplus w x) :
    x &&& significantBitsMask W w = x := by
  refine BitVec.eq_of_getLsbD_eq fun i hi => ?_
  rw [BitVec.getLsbD_and, getLsbD_significantBitsMask]
  by_cases low : i < w
  · simp [low, hi]
  · simp [low, h i (Nat.not_lt.1 low)]

/-- Reflecting twice keeps the bits below the width (R95). -/
theorem sameBits_reflect_reflect (hW : w ≤ W) (x : BitVec W) : SameBits w (reflect (reflect x w) w) x := by
  rw [reflect_reflect x hW, ← and_significantBitsMask_eq_iff hW, BitVec.and_assoc, BitVec.and_self]

/-- A bit step fed with the remainder's own top bit divides nothing, and below the width only moves up (R111). -/
theorem sameBits_bitStep_top (hw : 1 ≤ w) (hW : w ≤ W) (poly x : BitVec W) :
    SameBits w (bitStep w poly x (x.getLsbD (w - 1))) (x <<< 1) := fun i hi => by
  have inside : i < W := by omega
  have below : i ≠ w := by omega
  rw [getLsbD_bitStep _ _ _ _ _ hw hW, BitVec.getLsbD_shiftLeft]
  by_cases first : i = 0
  · simp [first]
  · simp [inside, below, first, Nat.one_le_iff_ne_zero]

/-- Fed with its own bits from the top down, a remainder below the width only moves up. -/
theorem sameBits_foldl_bitStep_top (hw : 1 ≤ w) (hW : w ≤ W) (poly x : BitVec W) (n : Nat) :
    SameBits w ((List.range n).foldl (fun r k => bitStep w poly r ((x <<< k).getLsbD (w - 1))) x) (x <<< n) := by
  induction n with
  | zero => exact fun i _ => by simp
  | succ n ih =>
    rw [List.range_succ, List.foldl_concat, ← ih (w - 1) (by omega), BitVec.shiftLeft_add]
    exact (sameBits_bitStep_top hw hW poly _).trans (ih.shiftLeft hW hW 1)

/-- Dividing the byte at the top of the remainder cancels it: eight places up, and nothing of the polynomial. -/
theorem sameBits_divideByte_topByte (hw : 1 ≤ w) (hW : w ≤ W) (h : 8 ≤ W) (poly x : BitVec W) :
    SameBits w (divideByte w poly x (tableIndex w x 0 false)) (x <<< 8) := by
  have bits : [7, 6, 5, 4, 3, 2, 1, 0].map (tableIndex w x 0 false).getLsbD =
      (List.range 8).map fun k => (x <<< k).getLsbD (w - 1) := by
    have places : [7, 6, 5, 4, 3, 2, 1, 0] = (List.range 8).map (7 - ·) := by decide
    rw [places, List.map_map]
    exact List.map_congr_left fun k hk => getLsbD_tableIndex_zero hw hW h x (List.mem_range.1 hk)
  rw [divideByte, ← List.foldl_map (f := (tableIndex w x 0 false).getLsbD), bits, List.foldl_map]
  exact sameBits_foldl_bitStep_top hw hW poly x 8

/-- Unreflected, the table step divides the byte: the top byte of the remainder moves out through the table (R143). -/
theorem sameBits_tdeByte_unreflected (hw : 1 ≤ w) (hW : w ≤ W) (h : 8 ≤ W) (poly x : BitVec W) (v : Byte) :
    SameBits w (tdeByte w (buildTable w poly false) false x v) (divideByte w poly x v) := by
  have split : divideByte w poly x v =
      divideByte w poly x (tableIndex w x 0 false) ^^^ divideByte w poly 0 (tableIndex w x v false) := by
    rw [← divideByte_xor hw hW, tableIndex_eq_xor h x v, ← BitVec.xor_assoc]
    simp
  have step : tdeByte w (buildTable w poly false) false x v =
      x <<< 8 ^^^ divideByte w poly 0 (tableIndex w x v false) := by
    rw [tdeByte, readEntry_buildTable]
    rfl
  rw [split, step]
  exact (sameBits_divideByte_topByte hw hW h poly x).symm.xor (.refl w _)

/-- Where the remainder has no surplus bits, its bit `k` stands in its reflection `k` places below the top (R93). -/
theorem getLsbD_shiftLeft_reflect (hw : 1 ≤ w) (hW : w ≤ W) {x : BitVec W} (hx : NoSurplus w x) (k : Nat) :
    (reflect x w <<< k).getLsbD (w - 1) = x.getLsbD k := by
  have top : w - 1 < W := by omega
  rw [BitVec.getLsbD_shiftLeft]
  by_cases hk : k < w
  · have kept : ¬ w - 1 < k := by omega
    rw [getLsbD_reflect_mirror x hW hk]
    simp [top, kept]
  · have out : w - 1 < k := by omega
    simp [out, hx k (by omega)]

/-- Where the remainder has no surplus bits, reflecting it takes the low byte, reversed, to the top (R141, R93). -/
theorem tableIndex_reflect (hw : 1 ≤ w) (hW : w ≤ W) (h : 8 ≤ W) {x : BitVec W} (hx : NoSurplus w x) (v : Byte) :
    tableIndex w (reflect x w) (reflect v 8) false = reflect (tableIndex w x v true) 8 := by
  have top : tableIndex w (reflect x w) 0 false = reflect (x.setWidth 8) 8 := by
    refine BitVec.eq_of_getLsbD_eq fun i hi => ?_
    obtain ⟨k, hk, rfl⟩ : ∃ k < 8, i = 7 - k := ⟨7 - i, by omega, by omega⟩
    have low : (x.setWidth 8).getLsbD k = x.getLsbD k := by
      rw [BitVec.getLsbD_setWidth, decide_eq_true hk, Bool.true_and]
    rw [getLsbD_tableIndex_zero hw hW h _ hk, getLsbD_shiftLeft_reflect hw hW hx, ← low]
    exact (getLsbD_reflect_mirror _ (Nat.le_refl 8) hk).symm
  rw [tableIndex_eq_xor h, top, tableIndex_reflected h, reflect_xor _ _ (Nat.le_refl 8)]

/-- Where the remainder has no surplus bits, moving it down is moving its reflection up, below the width (R142). -/
theorem sameBits_reflect_ushiftRight (hW : w ≤ W) {x : BitVec W} (hx : NoSurplus w x) (n : Nat) :
    SameBits w (reflect (x >>> n) w) (reflect x w <<< n) := fun i hi => by
  have inside : i < W := by omega
  rw [getLsbD_reflect _ _ _ hW, BitVec.getLsbD_ushiftRight, BitVec.getLsbD_shiftLeft, getLsbD_reflect _ _ _ hW]
  by_cases out : i < n
  · simp [out, hx (n + (w - 1 - i)) (by omega)]
  · have place : w - 1 - (i - n) = n + (w - 1 - i) := by omega
    have kept : i - n < w := by omega
    simp [out, hi, inside, place, kept]

/-- The reflected table step is the unreflected one, seen in a mirror (R143, R151). -/
theorem sameBits_reflect_tdeByte (hw : 1 ≤ w) (hW : w ≤ W) (h : 8 ≤ W) (poly : BitVec W) {x : BitVec W}
    (hx : NoSurplus w x) (v : Byte) :
    SameBits w (reflect (tdeByte w (buildTable w poly true) true x v) w)
      (tdeByte w (buildTable w poly false) false (reflect x w) (reflect v 8)) := by
  have entry : SameBits w (reflect (tableEntry w poly true (tableIndex w x v true)) w)
      (tableEntry w poly false (reflect (tableIndex w x v true) 8)) := sameBits_reflect_reflect hW _
  rw [tdeByte, tdeByte, readEntry_buildTable, readEntry_buildTable, reflect_xor _ _ hW, tableIndex_reflect hw hW h hx]
  exact (sameBits_reflect_ushiftRight hW hx 8).xor entry

/-! ### The engines agree -/

/-- The Table-Driven Engine's remainder and the Bit-Serial Engine's are the same natural remainder (R150), and a
reflected one has no surplus bits (R151). -/
structure RemaindersAgree (w : Nat) (refin : Bool) (tde bse : BitVec W) : Prop where
  natural : SameBits w (reflectHelper w tde refin) bse
  fits : refin = true → NoSurplus w tde

/-- Both engines load a natural value (R115, R116, R145, R146). -/
theorem remaindersAgree_load (hW : w ≤ W) (refin : Bool) (x : BitVec W) :
    RemaindersAgree w refin (reflectHelper w x refin) x := by
  cases refin with
  | false => exact ⟨.refl w x, nofun⟩
  | true => exact ⟨sameBits_reflect_reflect hW x, fun _ => noSurplus_reflect hW x⟩

/-- The same byte through both engines (R150). -/
theorem RemaindersAgree.byte (hw : 1 ≤ w) (hW : w ≤ W) (h : 8 ≤ W) (poly : BitVec W) {refin : Bool}
    {tde bse : BitVec W} (agree : RemaindersAgree w refin tde bse) (v : Byte) :
    RemaindersAgree w refin (tdeByte w (buildTable w poly refin) refin tde v) (bseByte w poly refin bse v) where
  natural := by
    have divided (d : Byte) := sameBits_divideByte (P := poly) (Q := poly) hw hW hW (.refl w poly) d agree.natural
    cases refin with
    | false => exact (sameBits_tdeByte_unreflected hw hW h poly tde v).trans (divided v)
    | true =>
      exact (sameBits_reflect_tdeByte hw hW h poly (agree.fits rfl) v).trans <|
        (sameBits_tdeByte_unreflected hw hW h poly _ _).trans (divided (reflect v 8))
  fits := by
    have self : SameTde w refin tde tde := ⟨.refl w tde, agree.fits, agree.fits⟩
    have table := sameTde_buildTable hw hW hW (.refl w poly) refin
    exact (sameTde_tdeByte h h hW hW table v self).left

/-- Finalizing one natural remainder from either engine (R118, R148): the flags' difference undoes the reflection that
the input flag made. -/
theorem RemaindersAgree.finalized (hW : w ≤ W) {refin : Bool} {tde bse : BitVec W}
    (agree : RemaindersAgree w refin tde bse) (refout : Bool) :
    SameBits w (reflectHelper w tde (refout ^^ refin)) (reflectHelper w bse refout) := by
  have natural := sameBits_reflectHelper hW hW agree.natural refout
  cases refin with
  | false => simpa using natural
  | true =>
    cases refout with
    | false => exact natural
    | true => exact (sameBits_reflect_reflect hW tde).symm.trans natural

/-- The natural remainder, masked and loaded again, loses its surplus bits, of which a reflected one has none (R152). -/
theorem reflectHelper_masked_reflectHelper (hW : w ≤ W) {refin : Bool} {x : BitVec W}
    (fits : refin = true → NoSurplus w x) :
    reflectHelper w (reflectHelper w x refin &&& significantBitsMask W w) refin =
      if refin then x else x &&& significantBitsMask W w := by
  cases refin with
  | false => rfl
  | true =>
    rw [reflectHelper_true, reflectHelper_true, (noSurplus_reflect hW x).and_significantBitsMask, reflect_reflect x hW,
      (fits rfl).and_significantBitsMask, if_pos rfl]

/-- The statements' agreement is equality below the width (R150). -/
theorem enginesAgree_iff (hW : b.width ≤ p.regw) :
    b.EnginesAgree ↔ SameBits b.width (reflectHelper b.width b.tdeRem b.pRefin) b.bseRem :=
  and_significantBitsMask_eq_iff hW

/-- Under the invariant of R212, engines that agree hold agreeing remainders. -/
theorem remaindersAgree_of_enginesAgree (inv : b.ReadyInv) (agree : b.EnginesAgree) :
    RemaindersAgree b.width b.pRefin b.tdeRem b.bseRem :=
  ⟨(enginesAgree_iff inv.width_le).1 agree, fun refin => noSurplus_of_lt (inv.tde_rem refin)⟩

/-- The block with both remainders written and some answers received. -/
def withRemainders (b : Block p) (tde bse : Word p) (l : List (Answer p)) : Block p :=
  withAnswers ((b.withBseRem bse).withTdeRem tde) l

/-- Writing agreeing remainders keeps the invariant of R212, and leaves the engines in agreement. -/
theorem readyInv_withRemainders (inv : b.ReadyInv) {tde bse : Word p}
    (agree : RemaindersAgree b.width b.pRefin tde bse) (l : List (Answer p)) :
    (withRemainders b tde bse l).ReadyInv ∧ (withRemainders b tde bse l).EnginesAgree :=
  ⟨{ inv with tde_rem := fun refin => (agree.fits refin).toNat_lt },
    (enginesAgree_iff (b := withRemainders b tde bse l) inv.width_le).2 agree.natural⟩

/-- The same message through both engines (R150). -/
theorem remaindersAgree_foldl (inv : b.ReadyInv) {tde bse : Word p}
    (agree : RemaindersAgree b.width b.pRefin tde bse) (msg : List Byte) :
    RemaindersAgree b.width b.pRefin (msg.foldl (tdeByte b.width b.tdeTable b.pRefin) tde)
      (msg.foldl (bseByte b.width b.pPoly b.pRefin) bse) := by
  rw [inv.tde_table]
  exact foldl_keeps (fun _ _ v agree => agree.byte inv.width_pos inv.width_le p.eight_le_regw b.pPoly v) msg agree

/-! ### The commands that keep, make and use the agreement -/

/-- In `READY`, `tde.interim` returns the natural remainder, masked (R147). -/
theorem exec_tdeInterim_ready (hm : b.mode = .ready) :
    exec .tdeInterim ⟨p, b⟩ = respondVal b (reflectHelper b.width b.tdeRem b.pRefin &&& b.sig) :=
  whenReady_ready hm

/-- In `READY`, `tde.checksum` returns the finalized remainder, masked (R148). -/
theorem exec_tdeChecksum_ready (hm : b.mode = .ready) :
    exec .tdeChecksum ⟨p, b⟩ =
      respondVal b ((reflectHelper b.width b.tdeRem (b.pRefout ^^ b.pRefin) ^^^ b.pXorout) &&& b.sig) :=
  whenReady_ready hm

/-- A sequence of commands goes on from the state its first command leaves. -/
theorem runCommands_cons {i : Instr} {s t : State} (h : exec i s = .next t) (is : List Instr) :
    runCommands (i :: is) s = runCommands is t := by
  rw [runCommands, h]

/-- A sequence of commands goes on from the state its first part leaves. -/
theorem runCommands_append {is : List Instr} {s t : State} (h : runCommands is s = .next t) (js : List Instr) :
    runCommands (is ++ js) s = runCommands js t := by
  induction is generalizing s with
  | nil =>
    cases h
    rfl
  | cons i is ih =>
    cases hi : exec i s with
    | next u =>
      rw [runCommands_cons hi] at h
      exact (runCommands_cons hi _).trans (ih h)
    | fault f => simp [runCommands, hi] at h
    | refused r => simp [runCommands, hi] at h

/-- A message through the Bit-Serial Engine and then through the Table-Driven Engine (R113, R143). -/
theorem runCommands_bsePbyte_tdePbyte (hm : b.mode = .ready) (msg : List Byte) :
    ∃ l, runCommands (msg.map .bsePbyte ++ msg.map .tdePbyte) ⟨p, b⟩ =
      .next ⟨p, withRemainders b (msg.foldl (tdeByte b.width b.tdeTable b.pRefin) b.tdeRem)
        (msg.foldl (bseByte b.width b.pPoly b.pRefin) b.bseRem) l⟩ := by
  obtain ⟨l, bse⟩ := (takesByte_bsePbyte hm).runCommands_map msg b.bseRem b.answers
  obtain ⟨l', tde⟩ :=
    (takesByte_tdePbyte (b := b.withBseRem (msg.foldl _ b.bseRem)) hm).runCommands_map msg b.tdeRem l
  exact ⟨l', (runCommands_append bse _).trans tde⟩

/-- From `READY` under the invariant of R212, any message through both engines keeps them in agreement (R150). -/
theorem enginesAgree_after_message (hm : b.mode = .ready) (inv : b.ReadyInv) (agree : b.EnginesAgree)
    (msg : List Byte) :
    ∃ c : Block p, runCommands (msg.map .bsePbyte ++ msg.map .tdePbyte) ⟨p, b⟩ = .next ⟨p, c⟩ ∧ c.mode = .ready ∧
      c.ReadyInv ∧ c.EnginesAgree := by
  obtain ⟨l, run⟩ := runCommands_bsePbyte_tdePbyte hm msg
  have kept := remaindersAgree_foldl inv (remaindersAgree_of_enginesAgree inv agree) msg
  exact ⟨_, run, hm, readyInv_withRemainders inv kept l⟩

/-- From `READY` under the invariant of R212, two commands that load one natural value into the engines leave them in
agreement (R150). -/
theorem enginesAgree_after_load (hm : b.mode = .ready) (inv : b.ReadyInv) {i j : Instr} {v : Word p}
    (bse : exec i ⟨p, b⟩ = respondOk (b.withBseRem v))
    (tde : exec j ⟨p, (b.withBseRem v).answer .ok⟩ =
      respondOk (((b.withBseRem v).answer .ok).withTdeRem (reflectHelper b.width v b.pRefin))) :
    ∃ c : Block p, runCommands [i, j] ⟨p, b⟩ = .next ⟨p, c⟩ ∧ c.mode = .ready ∧ c.ReadyInv ∧ c.EnginesAgree := by
  have run : runCommands [i, j] ⟨p, b⟩ =
      .next ⟨p, withRemainders b (reflectHelper b.width v b.pRefin) v (.ok :: .ok :: b.answers)⟩ :=
    (runCommands_cons bse [j]).trans (runCommands_cons tde [])
  exact ⟨_, run, hm, readyInv_withRemainders inv (remaindersAgree_load inv.width_le b.pRefin v) _⟩

/-- A `construct` that passes its checks has found a polynomial and an initial remainder that fit (R96). -/
theorem fits_of_constructError_none (h : b.constructError = none) :
    b.cfgPoly.toNat < 2 ^ b.cfgWidth.toNat ∧ b.cfgInit.toNat < 2 ^ b.cfgWidth.toNat := by
  obtain ⟨hw, hW⟩ := width_of_constructError_none h
  by_contra wide
  have faults := constructError_param hw hW (by omega)
  rw [h] at faults
  cases faults

/-- A `construct` that answers `OK` brings the invariant of R212 about, and loads both engines with one initial
remainder (R96). -/
theorem readyInv_latch (h : b.constructError = none) :
    (b.latch.answer .ok).ReadyInv ∧ (b.latch.answer .ok).EnginesAgree := by
  obtain ⟨hw, hW⟩ := width_of_constructError_none h
  obtain ⟨poly, init⟩ := fits_of_constructError_none h
  have loaded := remaindersAgree_load hW (b.cfgCtrl.getLsbD 0) b.cfgInit
  exact ⟨⟨hw, hW, poly, init, rfl, rfl, fun refin => (loaded.fits refin).toNat_lt⟩,
    (enginesAgree_iff (b := b.latch.answer .ok) hW).2 loaded.natural⟩

end TableDriven

/-- Settles O42: one byte is a message, which keeps the engines in agreement. -/
theorem enginesAgreeAfterEachByte : Obligations.EnginesAgreeAfterEachByte :=
  fun _ _ v hm inv agree => enginesAgree_after_message hm inv agree [v]

/-- Settles O37: the statement's byte step is the model's. -/
theorem tdePbyteLooksUpOnce : Obligations.TdePbyteLooksUpOnce := by
  intro p b byte hm
  obtain ⟨-, -, -, word, -⟩ := wordsAsAssembled
  refine ⟨word byte, ?_⟩
  rw [tableStep_eq_tdeByte p.eight_le_regw]
  exact exec_tdePbyte_ready hm byte

/-- Settles O38: the range holds the bytes, which are folded, or leaves the buffer. -/
theorem tdePbytesFoldsTheRange : Obligations.TdePbytesFoldsTheRange := by
  refine ⟨rfl, fun p b bytes hm held => ?_, fun p b hm outside => ?_⟩
  · rw [tableStep_eq_tdeByte p.eight_le_regw]
    exact exec_tdePbytes_holds hm held
  · exact (whenReady_ready hm).trans (withMessage_outside .tdePbytes _ outside)

/-- Settles O39: each reset is its own rule in `READY`. -/
theorem tdeResetsReflectNaturalValues : Obligations.TdeResetsReflectNaturalValues :=
  ⟨rfl, rfl, fun _ _ hm => ⟨whenReady_ready hm, whenReady_ready hm⟩⟩

/-- Settles O40: the mask of R147 is the model's `SIG`. -/
theorem tdeInterimReturnsTheNaturalRemainder : Obligations.TdeInterimReturnsTheNaturalRemainder := by
  refine ⟨rfl, fun p b hm => ?_⟩
  rw [sig_eq]
  exact exec_tdeInterim_ready hm

/-- Settles O41: the four cases of R148 reflect exactly where the flags differ. -/
theorem tdeChecksumFinalizes : Obligations.TdeChecksumFinalizes := by
  refine ⟨rfl, fun p b hm => ?_⟩
  rw [sig_eq]
  intro r v
  have reflected : reflectHelper b.width b.tdeRem (b.pRefout ^^ b.pRefin) = r := by
    cases hin : b.pRefin <;> cases hout : b.pRefout <;> simp [r, hin, hout]
  exact (exec_tdeChecksum_ready hm).trans (by rw [reflected]; rfl)

/-- Settles O43: `construct` latches, and each pair of resets loads one natural value. -/
theorem enginesAgreeFromEachStart : Obligations.EnginesAgreeFromEachStart := by
  refine ⟨fun p b c hm h ready => ?_, fun p b hm inv => ⟨?_, ?_⟩⟩
  · cases hc : b.constructError with
    | some code =>
      rw [exec_construct_error hm hc] at h
      cases h
      cases ready
    | none =>
      rw [exec_construct_latch hm hc] at h
      cases h
      exact readyInv_latch hc
  · exact enginesAgree_after_load hm inv (whenReady_ready hm) (whenReady_ready hm)
  · exact enginesAgree_after_load hm inv (whenReady_ready hm) (whenReady_ready hm)

/-- Settles O44: the interim values are the agreement itself, and the checksums finalize one natural remainder. -/
theorem agreeingEnginesRespondAlike : Obligations.AgreeingEnginesRespondAlike := by
  intro p b hm inv agree
  have finalized := (remaindersAgree_of_enginesAgree inv agree).finalized inv.width_le b.pRefout
  have checksum := finalized.xor (.refl b.width b.pXorout)
  constructor
  · calc exec .tdeInterim ⟨p, b⟩
      _ = respondVal b (reflectHelper b.width b.tdeRem b.pRefin &&& b.sig) := exec_tdeInterim_ready hm
      _ = respondVal b (b.bseRem &&& b.sig) := congrArg (respondVal b) agree
      _ = exec .bseInterim ⟨p, b⟩ := (whenReady_ready hm).symm
  · calc exec .tdeChecksum ⟨p, b⟩
      _ = respondVal b ((reflectHelper b.width b.tdeRem (b.pRefout ^^ b.pRefin) ^^^ b.pXorout) &&& b.sig) :=
        exec_tdeChecksum_ready hm
      _ = respondVal b ((reflectHelper b.width b.bseRem b.pRefout ^^^ b.pXorout) &&& b.sig) :=
        congrArg (respondVal b) ((and_significantBitsMask_eq_iff inv.width_le).2 checksum)
      _ = exec .bseChecksum ⟨p, b⟩ := (whenReady_ready hm).symm

/-- Settles O45: `construct` brings the agreement about, each byte keeps it, and agreeing engines respond alike. -/
theorem engineEquivalence : Obligations.EngineEquivalence := by
  intro p b msg hm hw hW poly init
  have passes := constructError_eq_none hw hW poly init
  obtain ⟨inv, agree⟩ := readyInv_latch passes
  obtain ⟨c, run, ready, cinv, cagree⟩ := enginesAgree_after_message (b := b.latch.answer .ok) rfl inv agree msg
  exact ⟨c, (runCommands_cons (exec_construct_latch hm passes) _).trans run, ready,
    agreeingEnginesRespondAlike p c ready cinv cagree⟩

/-- Settles O46: the interim value is reflected back, and a reflected remainder has no surplus bits to lose. -/
theorem suspendAndResume : Obligations.SuspendAndResume := by
  intro p b hm inv
  refine ⟨_, _, exec_tdeInterim_ready hm, whenReady_ready hm, ?_⟩
  rw [sig_eq]
  exact reflectHelper_masked_reflectHelper inv.width_le fun refin => noSurplus_of_lt (inv.tde_rem refin)

end Sys2Proof.Proofs

/-! ## The Augmented Engine (44_augmented_engine.md R160 to R167)

One byte of `aug.calc` multiplies the remainder by `x^8` modulo the polynomial (`advance`) and adds the byte
(`polyByte_eq_advance_xor`), so the fold over a range is linear in the starting remainder and in every byte. -/

namespace Sys2Proof.Proofs

open Sys2Proof Sys2Proof.Machine Sys2Proof.Claims

section Augmented

variable {W w : Nat}

/-! ### The statements' step is the model's -/

/-- The statements' unmasked step, masked, is the model's byte step (R161, R166). -/
theorem augStep_masked (w : Nat) (t : Table W) (rem : BitVec W) (v : Byte) :
    augStep w t rem v &&& sig W w = augByte w t rem v := by
  have index : entryAt t (rem >>> (w - 8)).toNat = readEntry t ((rem >>> (w - 8)).setWidth 8) := by
    simpa using entryAt_xor_byte t (rem >>> (w - 8)) 0
  rw [augStep, index, sig_eq, augByte]

/-- A masked remainder keeps its bits below the width (R36). -/
theorem sameBits_masked (hW : w ≤ W) (x : BitVec W) : SameBits w (x &&& significantBitsMask W w) x := by
  rw [← and_significantBitsMask_eq_iff hW, BitVec.and_assoc, BitVec.and_self]

/-- A masked remainder has no surplus bits (R36). -/
theorem noSurplus_masked (w : Nat) (x : BitVec W) : NoSurplus w (x &&& significantBitsMask W w) :=
  noSurplus_of_lt (and_significantBitsMask_lt w x)

/-- The unmasked step agrees with the model's below the width, from remainders that agree there (R166). -/
theorem sameBits_augStep_augByte (h8 : 8 ≤ w) (hW : w ≤ W) (t : Table W) (v : Byte) {x y : BitVec W}
    (h : SameBits w x y) : SameBits w (augStep w t x v) (augByte w t y v) := by
  have unmasked : SameBits w (augStep w t x v) (augByte w t x v) := by
    rw [← augStep_masked, sig_eq]
    exact (sameBits_masked hW _).symm
  exact unmasked.trans (sameBits_augByte h8 hW hW (fun _ => .refl w _) v h)

/-- The fold of R161 from remainders that agree below the width. -/
theorem sameBits_foldl_augByte (h8 : 8 ≤ w) (hW : w ≤ W) (t : Table W) (bytes : List Byte) {x y : BitVec W}
    (h : SameBits w x y) : SameBits w (bytes.foldl (augByte w t) x) (bytes.foldl (augByte w t) y) :=
  foldl_keeps (fun _ _ v => sameBits_augByte h8 hW hW (fun _ => .refl w _) v) bytes h

/-- A value moved up eight places leaves room for a byte, so `OR` with it is XOR (R161). -/
theorem shiftLeft_or_byte (x : BitVec W) (v : Byte) : x <<< 8 ||| v.setWidth W = x <<< 8 ^^^ v.setWidth W := by
  refine BitVec.eq_of_getLsbD_eq fun i _ => ?_
  rw [BitVec.getLsbD_or, BitVec.getLsbD_xor, BitVec.getLsbD_shiftLeft, BitVec.getLsbD_setWidth]
  by_cases low : i < 8
  · simp [low]
  · simp [BitVec.getLsbD_of_ge v i (by omega)]

/-- One byte of `aug.calc` over the table that `construct` builds from a polynomial (R131, R161). -/
abbrev polyByte (w : Nat) (poly : BitVec W) : BitVec W → Byte → BitVec W := augByte w (buildTable w poly false)

/-- The byte step over a built table, in XOR alone (R161). -/
theorem polyByte_eq (w : Nat) (poly rem : BitVec W) (v : Byte) :
    polyByte w poly rem v =
      (rem <<< 8 ^^^ tableEntry w poly false ((rem >>> (w - 8)).setWidth 8) ^^^ v.setWidth W) &&&
        significantBitsMask W w := by
  rw [polyByte, augByte, readEntry_buildTable, shiftLeft_or_byte, BitVec.xor_assoc, BitVec.xor_assoc,
    BitVec.xor_comm (v.setWidth W)]

/-! ### Linearity -/

/-- Masking is linear. -/
theorem xor_masked (x y m : BitVec W) : (x ^^^ y) &&& m = x &&& m ^^^ y &&& m :=
  BitVec.eq_of_getLsbD_eq fun i _ => by
    simp only [BitVec.getLsbD_and, BitVec.getLsbD_xor, Bool.and_xor_distrib_right]

/-- One byte of `aug.calc` is linear in the remainder and the byte together (R161, R134). -/
theorem polyByte_xor (hw : 1 ≤ w) (hW : w ≤ W) (poly x y : BitVec W) (a b : Byte) :
    polyByte w poly (x ^^^ y) (a ^^^ b) =
      polyByte w poly x a ^^^ polyByte w poly y b := by
  simp only [polyByte_eq, BitVec.shiftLeft_xor_distrib, BitVec.ushiftRight_xor_distrib, BitVec.setWidth_xor,
    tableEntry_xor hw hW, xor_masked]
  ac_rfl

/-- `aug.calc` with a zero byte: the remainder times `x^8`, modulo the polynomial (R161). -/
def advance (w : Nat) (poly rem : BitVec W) : BitVec W := polyByte w poly rem 0

theorem advance_xor (hw : 1 ≤ w) (hW : w ≤ W) (poly x y : BitVec W) :
    advance w poly (x ^^^ y) = advance w poly x ^^^ advance w poly y := by
  simpa [advance] using polyByte_xor hw hW poly x y 0 0

theorem iterate_advance_xor (hw : 1 ≤ w) (hW : w ≤ W) (poly x y : BitVec W) (n : Nat) :
    (advance w poly)^[n] (x ^^^ y) = (advance w poly)^[n] x ^^^ (advance w poly)^[n] y :=
  Function.Semiconj₂.iterate (advance_xor hw hW poly) n x y

/-- A byte fits the width. -/
theorem noSurplus_byte (h8 : 8 ≤ w) (v : Byte) : NoSurplus w (v.setWidth W) := fun i hi => by
  rw [BitVec.getLsbD_setWidth, BitVec.getLsbD_of_ge v i (by omega), Bool.and_false]

/-- A zero remainder stays zero. -/
theorem advance_zero (hw : 1 ≤ w) (hW : w ≤ W) (poly : BitVec W) : advance w poly 0 = 0 := by
  simpa using advance_xor hw hW poly 0 0

/-- The byte of the range is added to the remainder times `x^8` (R161). -/
theorem polyByte_eq_advance_xor (h8 : 8 ≤ w) (poly rem : BitVec W) (v : Byte) :
    polyByte w poly rem v = advance w poly rem ^^^ v.setWidth W := by
  rw [advance, polyByte_eq, polyByte_eq, xor_masked _ (v.setWidth W), (noSurplus_byte h8 v).and_significantBitsMask]
  simp

/-- The fold of R161 is linear in the starting remainder: what is added to it is carried through as many zero bytes. -/
theorem foldl_polyByte_xor (hw : 1 ≤ w) (hW : w ≤ W) (poly x y : BitVec W) (bytes : List Byte) :
    bytes.foldl (polyByte w poly) (x ^^^ y) =
      bytes.foldl (polyByte w poly) x ^^^ (advance w poly)^[bytes.length] y := by
  induction bytes generalizing x y with
  | nil => rfl
  | cons v bytes ih =>
    have step := polyByte_xor hw hW poly x y v 0
    rw [BitVec.ofNat_eq_ofNat, BitVec.xor_zero] at step
    rw [List.foldl_cons, step, ih]
    rfl

/-- The fold over zero bytes. -/
theorem foldl_polyByte_zeros (w : Nat) (poly x : BitVec W) (n : Nat) :
    (List.replicate n 0).foldl (polyByte w poly) x = (advance w poly)^[n] x := by
  induction n generalizing x with
  | zero => rfl
  | succ n ih => exact ih (advance w poly x)

/-- The fold of R161 is linear in each byte: what is added to a byte is carried through the bytes after it. -/
theorem foldl_polyByte_set (h8 : 8 ≤ w) (hW : w ≤ W) (poly x : BitVec W) (d : Byte) (bytes : List Byte) {k : Nat}
    (hk : k < bytes.length) :
    (bytes.set k (bytes[k] ^^^ d)).foldl (polyByte w poly) x =
      bytes.foldl (polyByte w poly) x ^^^
        (advance w poly)^[bytes.length - 1 - k] (d.setWidth W) := by
  have hw : 1 ≤ w := by omega
  induction bytes generalizing x k with
  | nil => cases hk
  | cons v bytes ih =>
    cases k with
    | zero =>
      have step : polyByte w poly x (v ^^^ d) =
          polyByte w poly x v ^^^ d.setWidth W := by
        simp only [polyByte_eq_advance_xor h8, BitVec.setWidth_xor, BitVec.xor_assoc]
      exact (congrArg (bytes.foldl _) step).trans (foldl_polyByte_xor hw hW poly _ _ bytes)
    | succ k =>
      have length : (v :: bytes).length - 1 - (k + 1) = bytes.length - 1 - k := by
        rw [List.length_cons]; omega
      rw [length]
      exact ih _ (Nat.lt_of_succ_lt_succ hk)

/-! ### Bytes on their way up the register -/

theorem NoSurplus.mono {m n : Nat} {x : BitVec W} (h : NoSurplus m x) (hmn : m ≤ n) : NoSurplus n x :=
  fun i hi => h i (Nat.le_trans hmn hi)

theorem NoSurplus.shiftLeft {n : Nat} {x : BitVec W} (h : NoSurplus n x) (k : Nat) : NoSurplus (n + k) (x <<< k) :=
  fun i hi => by rw [BitVec.getLsbD_shiftLeft, h (i - k) (by omega), Bool.and_false]

/-- While the top byte of the remainder is zero nothing is divided: the remainder moves up eight places (R161). -/
theorem advance_of_noSurplus (h8 : 8 ≤ w) (hW : w ≤ W) (poly : BitVec W) {x : BitVec W} (h : NoSurplus (w - 8) x) :
    advance w poly x = x <<< 8 := by
  have top : x >>> (w - 8) = 0 := not_not.1 (mt ushiftRight_ne_zero_iff.1 (Nat.not_le.2 h.toNat_lt))
  have entry : tableEntry w poly false 0#8 = 0 := tableEntry_zero (by omega) hW poly false
  have fits : NoSurplus w (x <<< 8) := (h.shiftLeft 8).mono (by omega)
  rw [advance, polyByte_eq, top]
  simp [entry, fits.and_significantBitsMask]

/-- A byte moves up from the bottom of the register undivided, until it stands at the top. -/
theorem iterate_advance_byte (hW : w ≤ W) (poly : BitVec W) (v : Byte) {n : Nat} (hn : 8 + 8 * n ≤ w) :
    (advance w poly)^[n] (v.setWidth W) = v.setWidth W <<< (8 * n) := by
  induction n with
  | zero => exact (BitVec.shiftLeft_zero _).symm
  | succ n ih =>
    have fits : NoSurplus (w - 8) (v.setWidth W <<< (8 * n)) :=
      ((noSurplus_byte (Nat.le_refl 8) v).shiftLeft (8 * n)).mono (by omega)
    rw [Function.iterate_succ_apply', ih (by omega), advance_of_noSurplus (by omega) hW poly fits, Nat.mul_succ,
      BitVec.shiftLeft_add]

/-- A byte that has moved all the way up and out leaves the remainder of its division (R130, R161). -/
theorem sameBits_iterate_advance_byte (hw8 : w % 8 = 0) (h8 : 8 ≤ w) (hW : w ≤ W) (poly : BitVec W) (v : Byte) :
    SameBits w ((advance w poly)^[w / 8] (v.setWidth W)) (divideByte w poly 0 v) := by
  obtain ⟨n, rfl⟩ : ∃ n, w = 8 + 8 * n := ⟨w / 8 - 1, by omega⟩
  have count : (8 + 8 * n) / 8 = n + 1 := by omega
  have top : (v.setWidth W <<< (8 * n) >>> (8 + 8 * n - 8)).setWidth 8 = v :=
    BitVec.eq_of_getLsbD_eq fun i hi => by
      have inside : 8 * n + i < W := by omega
      have small : i < W := by omega
      simp [hi, inside, small]
  have out : SameBits (8 + 8 * n) (v.setWidth W <<< (8 * n) <<< 8) (0 : BitVec W) := fun i hi => by
    rw [← BitVec.shiftLeft_add, BitVec.getLsbD_shiftLeft]
    simp; omega
  rw [count, Function.iterate_succ_apply', iterate_advance_byte hW poly v (Nat.le_refl _), advance, polyByte_eq, top]
  refine (sameBits_masked hW _).trans ?_
  simpa [tableEntry] using out.xor (.refl _ (divideByte (8 + 8 * n) poly 0 v))

/-- The low `n` bytes of a value, most significant first, as `HostWriteBE` writes them (R53). -/
def beBytes (n v : Nat) : List Byte := (List.range n).map fun j => BitVec.ofNat 8 (v / 2 ^ (8 * (n - 1 - j)))

theorem beBytes_succ (n v : Nat) : beBytes (n + 1) v = beBytes n (v / 2 ^ 8) ++ [BitVec.ofNat 8 v] := by
  have high : ∀ j ∈ List.range n, BitVec.ofNat 8 (v / 2 ^ (8 * (n + 1 - 1 - j))) =
      BitVec.ofNat 8 (v / 2 ^ 8 / 2 ^ (8 * (n - 1 - j))) := fun j hj => by
    have inside := List.mem_range.1 hj
    rw [Nat.div_div_eq_div_mul, ← Nat.pow_add, show 8 + 8 * (n - 1 - j) = 8 * (n + 1 - 1 - j) by omega]
  have last : v / 2 ^ (8 * (n + 1 - 1 - n)) = v := by simp
  rw [beBytes, List.range_succ, List.map_append, List.map_congr_left high, List.map_singleton, last, beBytes]

/-- A value that fits in `n` bytes of the register, written big-endian, is read back by the fold undivided (R54,
R163). -/
theorem foldl_polyByte_beBytes (h8 : 8 ≤ w) (hW : w ≤ W) (poly : BitVec W) {n : Nat} (hn : 8 * n ≤ w) {x : BitVec W}
    (hx : NoSurplus (8 * n) x) : (beBytes n x.toNat).foldl (polyByte w poly) 0 = x := by
  induction n generalizing x with
  | zero => exact (BitVec.eq_of_getLsbD_eq fun i _ => by simp [beBytes, hx i (by omega)])
  | succ n ih =>
    have high : NoSurplus (8 * n) (x >>> 8) := fun i hi => by
      rw [BitVec.getLsbD_ushiftRight, hx (8 + i) (by omega)]
    have joined : x >>> 8 <<< 8 ^^^ (BitVec.ofNat 8 x.toNat).setWidth W = x := BitVec.eq_of_getLsbD_eq fun i hi => by
      by_cases low : i < 8
      · simp [low, hi, ← BitVec.testBit_toNat]
      · simp [low, hi, show 8 + (i - 8) = i by omega]
    have quotient : x.toNat / 2 ^ 8 = (x >>> 8).toNat := by
      rw [BitVec.toNat_ushiftRight, Nat.shiftRight_eq_div_pow]
    rw [beBytes_succ, List.foldl_concat, quotient, ih (by omega) high, polyByte_eq_advance_xor h8,
      advance_of_noSurplus h8 hW poly (high.mono (by omega)), joined]

/-- A checksum written big-endian over the zero bytes it was computed with takes the fold to zero: by linearity its
bytes add the checksum itself to what the zero bytes left (R163). -/
theorem foldl_polyByte_embedded (hw8 : w % 8 = 0) (h8 : 8 ≤ w) (hW : w ≤ W) (poly : BitVec W) (msg : List Byte)
    {x : BitVec W} (hx : (msg ++ List.replicate (w / 8) 0).foldl (polyByte w poly) 0 &&&
      significantBitsMask W w = x) :
    (msg ++ beBytes (w / 8) x.toNat).foldl (polyByte w poly) 0 &&& significantBitsMask W w = 0 := by
  have bits : 8 * (w / 8) = w := by omega
  have fits : NoSurplus w x := hx ▸ noSurplus_masked w _
  have own : (beBytes (w / 8) x.toNat).foldl (polyByte w poly) 0 = x :=
    foldl_polyByte_beBytes h8 hW poly (Nat.le_of_eq bits) (bits.symm ▸ fits)
  have length : (beBytes (w / 8) x.toNat).length = w / 8 := by simp [beBytes]
  rw [List.foldl_append, foldl_polyByte_zeros] at hx
  have split := foldl_polyByte_xor (by omega) hW poly 0 (msg.foldl (polyByte w poly) 0)
    (beBytes (w / 8) x.toNat)
  rw [own, length, BitVec.ofNat_eq_ofNat, BitVec.zero_xor] at split
  rw [List.foldl_append, BitVec.ofNat_eq_ofNat, split, xor_masked, fits.and_significantBitsMask]
  exact (congrArg (x ^^^ ·) hx).trans (BitVec.xor_self)

/-! ### The augmented and the bit-serial fold -/

/-- At a width of at least 8, the index of R161 is the one of R141. -/
theorem topByte_eq_tableIndex (h8 : 8 ≤ w) (hW : w ≤ W) (x : BitVec W) :
    (x >>> (w - 8)).setWidth 8 = tableIndex w x 0 false := by
  by_cases wide : 8 < w
  · simp [tableIndex_wide (Nat.le_trans h8 hW) wide]
  · obtain rfl : w = 8 := by omega
    simp [tableIndex_narrow hW wide]

/-- A zero byte of `aug.calc` and a zero byte of the Bit-Serial Engine divide alike (R111, R161). -/
theorem sameBits_advance (h8 : 8 ≤ w) (hW : w ≤ W) (poly x : BitVec W) :
    SameBits w (advance w poly x) (divideByte w poly x 0) := by
  have unmasked : advance w poly x =
      tdeByte w (buildTable w poly false) false x 0 &&& significantBitsMask W w := by
    rw [advance, polyByte_eq, topByte_eq_tableIndex h8 hW, tdeByte, readEntry_buildTable]
    simp [tableShift]
  rw [unmasked]
  exact (sameBits_masked hW _).trans
    (sameBits_tdeByte_unreflected (by omega) hW (Nat.le_trans h8 hW) poly x 0)

/-- A byte taken in at the bottom and carried through `P_W/8` zero bytes is a byte divided at the top (R167). -/
theorem sameBits_iterate_polyByte (hw8 : w % 8 = 0) (h8 : 8 ≤ w) (hW : w ≤ W) (poly : BitVec W) {x y : BitVec W}
    (h : SameBits w ((advance w poly)^[w / 8] x) y) (v : Byte) :
    SameBits w ((advance w poly)^[w / 8] (polyByte w poly x v)) (divideByte w poly y v) := by
  have hw : 1 ≤ w := by omega
  have carried : SameBits w ((advance w poly)^[w / 8] (advance w poly x)) (divideByte w poly y 0) := by
    rw [← Function.iterate_succ_apply, Function.iterate_succ_apply']
    exact (sameBits_advance h8 hW poly _).trans (sameBits_divideByte hw hW hW (.refl w poly) 0 h)
  have split : divideByte w poly y v = divideByte w poly y 0 ^^^ divideByte w poly 0 v := by
    rw [← divideByte_xor hw hW]
    simp
  rw [polyByte_eq_advance_xor h8, iterate_advance_xor hw hW, split]
  exact carried.xor (sameBits_iterate_advance_byte hw8 h8 hW poly v)

/-- A message and `P_W/8` zero bytes through `aug.calc`, and the message through the unreflected Bit-Serial Engine, both
from zero, leave the same remainder (R167). -/
theorem sameBits_foldl_polyByte_zeros (hw8 : w % 8 = 0) (h8 : 8 ≤ w) (hW : w ≤ W) (poly : BitVec W) (msg : List Byte) :
    SameBits w ((msg ++ List.replicate (w / 8) 0).foldl (polyByte w poly) 0)
      (msg.foldl (bseByte w poly false) 0) := by
  have start : SameBits w ((advance w poly)^[w / 8] 0) (0 : BitVec W) := by
    rw [Function.iterate_fixed (advance_zero (by omega) hW poly)]
    exact .refl w 0
  rw [List.foldl_append, foldl_polyByte_zeros]
  exact foldl_keeps (R := fun x y => SameBits w ((advance w poly)^[w / 8] x) y)
    (fun _ _ v h => sameBits_iterate_polyByte hw8 h8 hW poly h v) msg start

/-! ### A single bit is never divided away (R165) -/

/-- What a power of `x` leaves when the polynomial has lowest term `x^t`: a single bit as long as nothing was divided,
and after that a value that is not zero and has no term below `x^t`. -/
inductive PowerRemainder (w t : Nat) (x : BitVec W) : Prop where
  | undivided (m : Nat) (inside : m < w) (single : ∀ i < w, x.getLsbD i = decide (i = m))
  | divided (k : Nat) (inside : k < w) (nonzero : x.getLsbD k = true) (low : ∀ i < t, x.getLsbD i = false)

/-- Such a value has a bit below the width, which no mask takes away. -/
theorem PowerRemainder.masked_ne_zero {t : Nat} (hW : w ≤ W) {x : BitVec W} (h : PowerRemainder w t x) :
    x &&& significantBitsMask W w ≠ 0 := by
  obtain ⟨i, hi, one⟩ : ∃ i < w, x.getLsbD i = true := by
    cases h with
    | undivided m inside single => exact ⟨m, inside, by rw [single m inside, decide_eq_true rfl]⟩
    | divided k inside nonzero low => exact ⟨k, inside, nonzero⟩
  intro zero
  have kept := sameBits_masked hW x i hi
  rw [zero, one, BitVec.ofNat_eq_ofNat, BitVec.getLsbD_zero] at kept
  cases kept

theorem PowerRemainder.of_sameBits {t : Nat} (ht : t ≤ w) {x y : BitVec W} (h : SameBits w x y)
    (hy : PowerRemainder w t y) : PowerRemainder w t x := by
  cases hy with
  | undivided m inside single => exact .undivided m inside fun i hi => (h i hi).trans (single i hi)
  | divided k inside nonzero low =>
    exact .divided k inside ((h k inside).trans nonzero) fun i hi => (h i (by omega)).trans (low i hi)

/-- One more zero bit: a bit at the top is replaced by the polynomial, whose lowest term nothing cancels, because the
remainder has no term below it (R111). -/
theorem PowerRemainder.next {t : Nat} {poly : BitVec W} (hw : 1 ≤ w) (hW : w ≤ W) (ht : t < w)
    (lowest : poly.getLsbD t = true) (below : ∀ i < t, poly.getLsbD i = false) {x : BitVec W}
    (h : PowerRemainder w t x) : PowerRemainder w t (bitStep w poly x false) := by
  have bit (i : Nat) (hi : i < w) : (bitStep w poly x false).getLsbD i =
      ((decide (1 ≤ i) && x.getLsbD (i - 1)) ^^ (x.getLsbD (w - 1) && poly.getLsbD i)) := by
    have inside : i < W := by omega
    rw [getLsbD_bitStep w poly x false i hw hW]
    simp [-BitVec.getLsbD_eq_getElem, inside]
  cases h with
  | undivided m inside single =>
    by_cases top : m = w - 1
    · have moved_out (i : Nat) (hi : i < w) : (bitStep w poly x false).getLsbD i = poly.getLsbD i := by
        have entering : (decide (1 ≤ i) && decide (i - 1 = w - 1)) = false := by simp; omega
        rw [bit i hi, single (i - 1) (by omega), single (w - 1) (by omega), top, entering]
        simp [-BitVec.getLsbD_eq_getElem]
      exact .divided t ht ((moved_out t ht).trans lowest) fun i hi => (moved_out i (by omega)).trans (below i hi)
    · refine .undivided (m + 1) (by omega) fun i hi => ?_
      have place : (1 ≤ i ∧ i - 1 = m) ↔ i = m + 1 := by omega
      rw [bit i hi, single (i - 1) (by omega), single (w - 1) (by omega), decide_eq_false (Ne.symm top)]
      simp [← Bool.decide_and, place]
  | divided k inside nonzero low =>
    have still_low (i : Nat) (hi : i < t) : (bitStep w poly x false).getLsbD i = false := by
      simp [bit i (by omega), low (i - 1) (by omega), below i hi]
    have entering : (decide (1 ≤ t) && x.getLsbD (t - 1)) = false := by
      by_cases first : 1 ≤ t
      · simp [low (t - 1) (by omega)]
      · simp [first]
    cases top : x.getLsbD (w - 1) with
    | true => exact .divided t ht (by rw [bit t ht, entering, top, lowest]; rfl) still_low
    | false =>
      have not_top : k ≠ w - 1 := by
        rintro rfl
        simp [top] at nonzero
      refine .divided (k + 1) (by omega) ?_ still_low
      simp [bit (k + 1) (by omega), top, nonzero]

/-- A single bit of a byte is a power of `x`. -/
theorem powerRemainder_byte (h8 : 8 ≤ w) (hW : w ≤ W) (t : Nat) {j : Nat} (hj : j < 8) :
    PowerRemainder w t ((BitVec.ofNat 8 (2 ^ j)).setWidth W) :=
  .undivided j (by omega) fun i hi => by
    have inside : i < W := by omega
    rw [BitVec.getLsbD_setWidth, BitVec.getLsbD_ofNat, Nat.testBit_two_pow, Bool.eq_iff_iff]
    simp [inside]
    omega

/-- A single bit of a byte, carried through any number of zero bytes, is not zero: no power of `x` is divisible by a
polynomial of two terms or more (R165). -/
theorem iterate_advance_bit_ne_zero (h8 : 8 ≤ w) (hW : w ≤ W) {poly : BitVec W} (fits : NoSurplus w poly)
    (nonzero : poly ≠ 0) {j : Nat} (hj : j < 8) (n : Nat) :
    (advance w poly)^[n] ((BitVec.ofNat 8 (2 ^ j)).setWidth W) &&& significantBitsMask W w ≠ 0 := by
  have some_term : ∃ t, poly.getLsbD t = true := by
    by_contra none
    exact nonzero (BitVec.eq_of_getLsbD_eq fun i _ => by simpa using not_exists.1 none i)
  have lowest := Nat.find_spec some_term
  have below (i : Nat) (hi : i < Nat.find some_term) : poly.getLsbD i = false := by
    simpa using Nat.find_min some_term hi
  have ht : Nat.find some_term < w := by
    by_contra high
    simp [fits _ (Nat.not_lt.1 high)] at lowest
  refine PowerRemainder.masked_ne_zero (t := Nat.find some_term) hW ?_
  induction n with
  | zero => exact powerRemainder_byte h8 hW _ hj
  | succ n ih =>
    rw [Function.iterate_succ_apply']
    refine .of_sameBits (Nat.le_of_lt ht) (sameBits_advance h8 hW poly _) ?_
    rw [divideByte]
    exact List.foldlRecOn _ _ ih fun x hx k _ => by
      rw [BitVec.ofNat_eq_ofNat, BitVec.getLsbD_zero]
      exact hx.next (by omega) hW ht lowest below

/-- A flipped bit takes a fold of 0 to what the bytes after it leave of a power of `x`, which is not 0 (R165). -/
theorem foldl_polyByte_flip_ne_zero (h8 : 8 ≤ w) (hW : w ≤ W) {poly : BitVec W} (fits : NoSurplus w poly)
    (nonzero : poly ≠ 0) {x : BitVec W} {bytes : List Byte}
    (zero : bytes.foldl (polyByte w poly) x &&& significantBitsMask W w = 0) {j k : Nat} (hj : j < 8)
    (hk : k < bytes.length) :
    (bytes.set k (bytes[k] ^^^ BitVec.ofNat 8 (2 ^ j))).foldl (polyByte w poly) x &&& significantBitsMask W w ≠ 0 := by
  rw [foldl_polyByte_set h8 hW, xor_masked, zero, BitVec.ofNat_eq_ofNat, BitVec.zero_xor]
  exact iterate_advance_bit_ne_zero h8 hW fits nonzero hj _

end Augmented

section AugmentedCommand

variable {p : Params} {b : Block p}

/-! ### What stands in a range -/

/-- Bytes stand from an address up exactly when each part of them stands in its place. -/
theorem holds_append {off : Nat} {first second : List Byte} :
    b.Holds off (first ++ second) ↔ b.Holds off first ∧ b.Holds (off + first.length) second := by
  constructor
  · rintro ⟨fits, stands⟩
    rw [List.length_append] at fits
    refine ⟨⟨by omega, fun k hk => ?_⟩, ⟨by omega, fun k hk => ?_⟩⟩
    · rw [stands k (by rw [List.length_append]; omega), List.getElem_append_left hk]
    · rw [Nat.add_assoc, stands (first.length + k) (by rw [List.length_append]; omega),
        List.getElem_append_right (by omega)]
      simp
  · rintro ⟨⟨-, stands⟩, ⟨fits, stands'⟩⟩
    refine ⟨by rw [List.length_append]; omega, fun k hk => ?_⟩
    by_cases early : k < first.length
    · rw [stands k early, List.getElem_append_left early]
    · have late : k - first.length < second.length := by rw [List.length_append] at hk; omega
      rw [List.getElem_append_right (by omega), ← stands' (k - first.length) late]
      congr 1
      omega

/-- An address where bytes stand fits `ARG_OFF`, unless it is the end of a buffer of `2^32` bytes, where none do. -/
theorem holds_ofNat {off : Nat} {bytes : List Byte} (h : b.Holds off bytes) :
    b.Holds (BitVec.ofNat 32 off).toNat bytes := by
  obtain ⟨fits, stands⟩ := h
  have bufsz := p.bufsz_le
  rw [BitVec.toNat_ofNat]
  by_cases inside : off < 2 ^ 32
  · rw [Nat.mod_eq_of_lt inside]
    exact ⟨fits, stands⟩
  · have empty : bytes.length = 0 := by omega
    exact ⟨by omega, fun k hk => by omega⟩

/-- A length of bytes that stand in the operand range fits `ARG_SIZE`. -/
theorem toNat_ofNat_of_le {n : Nat} (h : n ≤ b.argSize.toNat) : (BitVec.ofNat 32 n).toNat = n := by
  have := b.argSize.isLt
  rw [BitVec.toNat_ofNat, Nat.mod_eq_of_lt (by omega)]

/-- After a write into the range, the range holds the bytes with that one replaced. -/
theorem rangeHolds_write {bytes : List Byte} (h : b.RangeHolds bytes) (k : Nat) (v : Byte) :
    ({ b with buf := b.buf.write (b.argOff.toNat + k) v } : Block p).RangeHolds (bytes.set k v) := by
  obtain ⟨size, fits, stands⟩ := h
  refine ⟨by rw [List.length_set, size], by rw [List.length_set]; exact fits, fun i hi => ?_⟩
  rw [List.length_set] at hi
  rw [List.getElem_set]
  by_cases same : k = i
  · subst same
    rw [if_pos rfl]
    exact Memory.read_write_self _ _ _
  · rw [if_neg same]
    have elsewhere : b.argOff.toNat + i ≠ b.argOff.toNat + k := by omega
    exact (Memory.read_write_of_ne _ _ _ _ elsewhere).trans (stands i hi)

/-- What is read after bytes were written one after the other. -/
theorem read_foldl_write (m : Memory) (addr n a : Nat) (f : Nat → Byte) :
    ((List.range n).foldl (fun m j => m.write (addr + j) (f j)) m).read a =
      if addr ≤ a ∧ a < addr + n then some (f (a - addr)) else m.read a := by
  induction n with
  | zero => rw [if_neg (by omega)]; rfl
  | succ n ih =>
    rw [List.range_succ, List.foldl_concat]
    by_cases last : a = addr + n
    · subst last
      rw [Memory.read_write_self, if_pos (by omega), Nat.add_sub_cancel_left]
    · have same : (addr ≤ a ∧ a < addr + (n + 1)) ↔ (addr ≤ a ∧ a < addr + n) := by omega
      rw [Memory.read_write_of_ne _ _ _ _ last, ih]
      simp only [same]

/-- After `HostWriteBE` over the end of a range, the range holds the value there, big-endian (R53, R54). -/
theorem rangeHolds_writtenBE {msg reserved : List Byte} (h : b.RangeHolds (msg ++ reserved)) (v : Nat) :
    ({ b with buf := writtenBE b.buf (b.argOff.toNat + msg.length) reserved.length v } : Block p).RangeHolds
      (msg ++ beBytes reserved.length v) := by
  obtain ⟨size, held⟩ := h
  obtain ⟨⟨fits, stands⟩, ⟨fits', -⟩⟩ := holds_append.1 held
  have length : (beBytes reserved.length v).length = reserved.length := by simp [beBytes]
  refine ⟨by rw [List.length_append, length, ← size, List.length_append], holds_append.2 ⟨⟨fits, fun k hk => ?_⟩,
    by rw [length]; exact fits', fun k hk => ?_⟩⟩
  · have before : ¬ (b.argOff.toNat + msg.length ≤ b.argOff.toNat + k ∧
        b.argOff.toNat + k < b.argOff.toNat + msg.length + reserved.length) := by omega
    exact (read_foldl_write _ _ _ _ _).trans ((if_neg before).trans (stands k hk))
  · rw [length] at hk
    have inside : b.argOff.toNat + msg.length ≤ b.argOff.toNat + msg.length + k ∧
        b.argOff.toNat + msg.length + k < b.argOff.toNat + msg.length + reserved.length := by omega
    refine (read_foldl_write _ _ _ _ _).trans ((if_pos inside).trans ?_)
    simp [beBytes]

/-! ### The command in `READY` -/

/-- A width that `aug.calc` takes is at least 8 (R162). -/
theorem eight_le_width (inv : b.ReadyInv) (hw : b.width % 8 = 0) : 8 ≤ b.width := by
  have := inv.width_pos
  omega

/-- In `READY`, `aug.calc` returns the fold of the bytes of its range, masked (R161). -/
theorem exec_augCalc_holds {bytes : List Byte} (hm : b.mode = .ready) (hw : b.width % 8 = 0) (h : b.RangeHolds bytes) :
    exec .augCalc ⟨p, b⟩ = respondVal b (bytes.foldl (augByte b.width b.augTable) b.argA &&& b.sig) :=
  (exec_augCalc_ready hm hw).trans (withMessage_holds h)

/-- The same from a zero `ARG_A`, over the table that `construct` built (R131, R161). -/
theorem exec_augCalc_built {w : Nat} {poly : Word p} {bytes : List Byte} (hm : b.mode = .ready) (width : b.width = w)
    (hw : w % 8 = 0) (table : b.augTable = buildTable w poly false) (arg : b.argA = 0) (h : b.RangeHolds bytes) :
    exec .augCalc ⟨p, b⟩ = respondVal b
      (bytes.foldl (polyByte w poly) 0 &&& significantBitsMask p.regw w) := by
  subst width
  rw [exec_augCalc_holds hm hw h, table, arg, Block.sig]

/-- In `READY`, a width that is no multiple of 8 is the first fault of `aug.calc` (R162). -/
theorem exec_augCalc_width (hm : b.mode = .ready) (hw : b.width % 8 ≠ 0) :
    exec .augCalc ⟨p, b⟩ = raiseFault b .augWidth (encode .augCalc) :=
  (whenReady_ready hm).trans (if_pos hw)

/-- In `READY`, at a width that `aug.calc` takes, a range past the buffer is its second fault (R161, R162). -/
theorem exec_augCalc_outside (hm : b.mode = .ready) (hw : b.width % 8 = 0)
    (h : p.bufsz < b.argOff.toNat + b.argSize.toNat) :
    exec .augCalc ⟨p, b⟩ = raiseFault b .range (encode .augCalc) :=
  (exec_augCalc_ready hm hw).trans (withMessage_outside .augCalc _ h)

/-- From `READY`, `bse.resetv`, a message and `bse.interim` return the message divided into `ARG_A`, masked (R113, R116,
R117). -/
theorem runCommands_bseResetv_interim (hm : b.mode = .ready) (msg : List Byte) :
    ∃ d : Block p, runCommands (.bseResetv :: (msg.map .bsePbyte ++ [.bseInterim])) ⟨p, b⟩ = .next ⟨p, d⟩ ∧
      d.result = msg.foldl (bseByte b.width b.pPoly b.pRefin) b.argA &&& b.sig := by
  obtain ⟨l, run⟩ := runCommands_bseResetv_map hm msg
  have interim (v : Word p) : exec .bseInterim ⟨p, withAnswers (b.withBseRem v) l⟩ =
      respondVal (withAnswers (b.withBseRem v) l) (v &&& b.sig) := whenReady_ready hm
  exact ⟨_, (runCommands_append run [.bseInterim]).trans (runCommands_cons (interim _) []), rfl⟩

end AugmentedCommand

/-- Settles O47: the range holds the bytes, which are folded, or one of the two checks fails, the width first. -/
theorem augCalcComputes : Obligations.AugCalcComputes := by
  refine ⟨rfl, fun p b bytes hm hw held => ?_, fun p b => exec_augCalc_width, fun p b => exec_augCalc_outside⟩
  simp only [augStep_masked]
  rw [sig_eq]
  exact exec_augCalc_holds hm hw held

/-- Settles O48: the two folds agree below the width, which is all that the last mask compares. -/
theorem maskingCadenceIsInvisible : Obligations.MaskingCadenceIsInvisible := by
  intro p b bytes hm inv hw held
  refine ⟨_, exec_augCalc_holds hm hw held, ?_⟩
  have folds := foldl_keeps (R := SameBits b.width)
    (fun _ _ v => sameBits_augStep_augByte (eight_le_width inv hw) inv.width_le b.augTable v) bytes (.refl _ b.argA)
  rw [sig_eq]
  exact (and_significantBitsMask_eq_iff inv.width_le).2 folds.symm

/-- Settles O49: the second fold goes on from the first one's remainder, of which the mask between them keeps the bits
below the width. -/
theorem augSegmentsCompose : Obligations.AugSegmentsCompose := by
  intro p b first second hm inv hw ⟨size, held⟩
  obtain ⟨held₁, held₂⟩ := holds_append.1 held
  rw [List.length_append] at size
  have size₁ := toNat_ofNat_of_le (b := b) (n := first.length) (by omega)
  have size₂ := toNat_ofNat_of_le (b := b) (n := second.length) (by omega)
  refine ⟨_, _, _, exec_augCalc_holds hm hw ⟨by rw [List.length_append, size], held⟩,
    exec_augCalc_holds hm hw ⟨size₁.symm, held₁⟩, exec_augCalc_holds hm hw ⟨size₂.symm, holds_ofNat held₂⟩, ?_⟩
  refine (and_significantBitsMask_eq_iff inv.width_le).2 ?_
  rw [List.foldl_append]
  exact sameBits_foldl_augByte (eight_le_width inv hw) inv.width_le b.augTable second (sameBits_masked inv.width_le _)

/-- Settles O50: the second pass is over the message and the big-endian bytes of the first response. -/
theorem embeddedChecksumVerifies : Obligations.EmbeddedChecksumVerifies := by
  intro p b msg hm inv hw arg held
  have written := rangeHolds_writtenBE held ((msg ++ List.replicate (b.width / 8) 0).foldl
    (polyByte b.width b.pPoly) 0 &&& significantBitsMask p.regw b.width).toNat
  rw [List.length_replicate] at written
  have zero := foldl_polyByte_embedded hw (eight_le_width inv hw) inv.width_le b.pPoly msg rfl
  exact ⟨_, _, exec_augCalc_built hm rfl hw inv.aug_table arg held,
    exec_augCalc_built (w := b.width) (poly := b.pPoly) hm rfl hw inv.aug_table arg written,
    congrArg (Answer.val · :: _) zero⟩

/-- Settles O51: the range holds the bytes with the one flipped, which no longer fold to 0. -/
theorem singleBitFlipIsDetected : Obligations.SingleBitFlipIsDetected := by
  intro p b c bytes k hk j hm inv hw poly arg held h zero hj
  rw [exec_augCalc_built hm rfl hw inv.aug_table arg held] at h
  cases h
  have flipped := foldl_polyByte_flip_ne_zero (eight_le_width inv hw) inv.width_le (noSurplus_of_lt inv.poly_lt) poly
    zero hj hk
  exact ⟨_, exec_augCalc_built (w := b.width) (poly := b.pPoly) hm rfl hw inv.aug_table arg
    (rangeHolds_write held k _), flipped⟩

/-- Settles O52: both folds leave the same remainder below the width, and both responses mask it. -/
theorem augmentedMatchesBitSerial : Obligations.AugmentedMatchesBitSerial := by
  intro p b msg hm inv hw arg refin held
  obtain ⟨d, run, result⟩ := runCommands_bseResetv_interim hm msg
  refine ⟨_, d, exec_augCalc_built hm rfl hw inv.aug_table arg held, run, ?_⟩
  rw [result, arg, refin]
  exact (and_significantBitsMask_eq_iff inv.width_le).2
    (sameBits_foldl_polyByte_zeros hw (eight_le_width inv hw) inv.width_le b.pPoly msg)

/-- Settles O53: no check and no fold reads any of these fields. -/
theorem augCalcReadsOnlyItsOwn : Obligations.AugCalcReadsOnlyItsOwn := by
  intro p b c init xorout bse tde refin refout tab h
  obtain ⟨hm, e⟩ | ⟨hm, e⟩ | ⟨hm, -⟩ := whenReady_next h
  · cases e
    exact whenReady_faulted hm
  · cases e
    exact whenReady_unconfigured hm
  · by_cases hw : b.width % 8 = 0
    · obtain ⟨outside, -⟩ | ⟨-, addr, -, -, -, -, e⟩ | ⟨bytes, held, -⟩ := withMessage_cases .augCalc b _
      · rw [exec_augCalc_outside hm hw outside] at h
        cases h
        exact exec_augCalc_outside hm hw outside
      · rw [exec_augCalc_ready hm hw, e] at h
        cases h
      · rw [exec_augCalc_holds hm hw held] at h
        cases h
        exact exec_augCalc_holds hm hw held
    · rw [exec_augCalc_width hm hw] at h
      cases h
      exact exec_augCalc_width hm hw

end Sys2Proof.Proofs

/-! ## Exceptions (60_exceptions.md R181 to R185, R196) -/

namespace Sys2Proof.Proofs

open Sys2Proof Sys2Proof.Machine Sys2Proof.Claims

section Exceptions

variable {p : Params} {b c : Block p} {i : Instr} {cw : Word32}

/-! ### The checks in front of a command (R182) -/

/-- Every command but `construct` stands behind the guard (R182). -/
theorem exists_exec_eq_whenReady (hi : i ≠ .construct) : ∃ body, exec i ⟨p, b⟩ = whenReady i b body := by
  cases i with
  | construct => exact absurd rfl hi
  | _ => exact ⟨_, rfl⟩

/-- In `FAULTED` every command is turned away (R184). -/
theorem exec_faulted (i : Instr) (hm : b.mode = .faulted) : exec i ⟨p, b⟩ = respondFaulted b := by
  by_cases hi : i = .construct
  · exact hi ▸ exec_construct_faulted hm
  · obtain ⟨body, guarded⟩ := exists_exec_eq_whenReady (b := b) hi
    rw [guarded, whenReady_faulted hm]

/-- In `UNCONFIGURED` every command but `construct` is `ERR_NOT_CONFIGURED` (R182). -/
theorem exec_unconfigured (hi : i ≠ .construct) (hm : b.mode = .unconfigured) :
    exec i ⟨p, b⟩ = raiseFault b .notConfigured (encode i) := by
  obtain ⟨body, guarded⟩ := exists_exec_eq_whenReady (b := b) hi
  rw [guarded, whenReady_unconfigured hm]

/-- In `FAULTED` every word, legal or not, is turned away (R184). -/
theorem perform_command_faulted (cw : Word32) (hm : b.mode = .faulted) :
    perform (.command cw) b = respondFaulted b := by
  cases hd : decode cw with
  | ok i => exact (perform_command_ok hd).trans (exec_faulted i hm)
  | error e =>
    obtain ⟨-, answered⟩ | ⟨other, -⟩ := illegalCommand_cases cw b
    · exact (perform_command_error hd).trans answered
    · exact absurd hm other

/-- Outside `FAULTED` an illegal word is `ERR_ILLEGAL` (R182). -/
theorem perform_command_illegal {e : Illegal} (hd : decode cw = .error e) (hm : b.mode ≠ .faulted) :
    perform (.command cw) b = raiseFault b .illegal cw := by
  obtain ⟨turned, -⟩ | ⟨-, answered⟩ := illegalCommand_cases cw b
  · exact absurd turned hm
  · exact (perform_command_error hd).trans answered

/-! ### What a fault records (R181, R183) -/

/-- An outcome that leaves the block `FAULTED` has recorded the command's own word, and a cause that is not
`ERR_FAULTED`, which is response only (R181, R183). -/
def RecordsOwnFault (i : Instr) (o : Outcome) : Prop :=
  ∀ t, o = .next t → t.block.mode = .faulted → t.block.faultCw = encode i ∧ t.block.code ≠ some .faulted

theorem recordsOwnFault_raiseFault (i : Instr) (b : Block p) {code : ErrCode} (h : code ≠ .faulted) :
    RecordsOwnFault i (raiseFault b code (encode i)) := by
  rintro t ⟨⟩ -
  exact ⟨rfl, fun e => h (Option.some.inj e)⟩

/-- A command that leaves the block `READY` records no fault. -/
theorem recordsOwnFault_of_ready (h : c.mode = .ready) : RecordsOwnFault i (.next ⟨p, c⟩) := by
  rintro t ⟨⟩ faulted
  exact absurd (h.symm.trans faulted) (by decide)

/-- Outside `FAULTED` the guard adds `ERR_NOT_CONFIGURED` (R182). -/
theorem recordsOwnFault_whenReady {body : Outcome} (hm : b.mode ≠ .faulted)
    (h : b.mode = .ready → RecordsOwnFault i body) : RecordsOwnFault i (whenReady i b body) := by
  obtain ⟨turned, -⟩ | ⟨-, e⟩ | ⟨ready, e⟩ := whenReady_cases i b body
  · exact absurd turned hm
  · rw [e]
    exact recordsOwnFault_raiseFault i b (by decide)
  · rw [e]
    exact h ready

/-- A range command adds `ERR_RANGE` (R58). -/
theorem recordsOwnFault_withMessage {use : List Byte → Outcome} (h : ∀ bytes, RecordsOwnFault i (use bytes)) :
    RecordsOwnFault i (withMessage i b use) := by
  obtain ⟨-, e⟩ | ⟨-, addr, -, -, -, -, e⟩ | ⟨bytes, -, e⟩ := withMessage_cases i b use <;> rw [e]
  · exact recordsOwnFault_raiseFault i b (by decide)
  · rintro t ⟨⟩
  · exact h bytes

/-- The checks of `construct` give `ERR_WIDTH` or `ERR_PARAM` (R96). -/
theorem constructError_ne_faulted {code : ErrCode} (h : b.constructError = some code) : code ≠ .faulted := by
  rintro rfl
  unfold Block.constructError at h
  split_ifs at h <;> cases h

/-- Outside `FAULTED` every command records its own fault. -/
theorem recordsOwnFault_exec (i : Instr) (hm : b.mode ≠ .faulted) : RecordsOwnFault i (exec i ⟨p, b⟩) := by
  cases i with
  | construct =>
    cases hc : b.constructError with
    | some code => exact exec_construct_error hm hc ▸ recordsOwnFault_raiseFault _ b (constructError_ne_faulted hc)
    | none => exact exec_construct_latch hm hc ▸ recordsOwnFault_of_ready rfl
  | bsePbits val cnt =>
    refine recordsOwnFault_whenReady hm fun ready => ?_
    split
    · exact recordsOwnFault_raiseFault _ b (by decide)
    · exact recordsOwnFault_of_ready ready
  | bsePbytes | tdePbytes =>
    exact recordsOwnFault_whenReady hm fun ready => recordsOwnFault_withMessage fun _ => recordsOwnFault_of_ready ready
  | augCalc =>
    refine recordsOwnFault_whenReady hm fun ready => ?_
    split
    · exact recordsOwnFault_raiseFault _ b (by decide)
    · exact recordsOwnFault_withMessage fun _ => recordsOwnFault_of_ready ready
  | bsePbit _ | bsePbyte _ | bseReset | bseResetv | bseInterim | bseChecksum | tdePbyte _ | tdeReset | tdeResetv
  | tdeInterim | tdeChecksum | tbRead _ _ =>
    exact recordsOwnFault_whenReady hm fun ready => recordsOwnFault_of_ready ready

/-! ### Everything a command word can come to (R182 to R184, R196) -/

/-- What `Command(cw)` does to a block when it answers: it is turned away, it raises a fault, or it completes. -/
inductive CommandResult (cw : Word32) (b : Block p) : Block p → Prop where
  /-- It was turned away in `FAULTED` (R184). -/
  | turnedAway (hm : b.mode = .faulted) : CommandResult cw b (b.answer (.err .faulted))
  /-- It raised a fault (R183). -/
  | raised (code : ErrCode) (hm : b.mode ≠ .faulted) (hcode : code ≠ .faulted) :
      CommandResult cw b (faulted b code cw)
  /-- It completed, answering no error; from `UNCONFIGURED` it was `construct` (R196). -/
  | completed {c : Block p} (a : Answer p) (hm : b.mode ≠ .faulted) (ready : c.mode = .ready)
      (answers : c.answers = a :: b.answers) (noError : someError [a] = false)
      (first : b.mode = .unconfigured → decode cw = .ok .construct ∧ a = .ok) : CommandResult cw b c

/-- A command that needs `READY` and keeps it has completed. -/
theorem CommandResult.of_ready {a : Answer p} (hm : b.mode = .ready) (ready : c.mode = .ready)
    (answers : c.answers = a :: b.answers) (noError : someError [a] = false) : CommandResult cw b c :=
  .completed a (by simp [hm]) ready answers noError (by simp [hm])

/-- The result of an executed command is read off its effect; `FAULT_CW` is the issued word, because encoding gives it
back. -/
theorem commandResult_of_exec (hd : decode cw = .ok i) (h : exec i ⟨p, b⟩ = .next ⟨p, c⟩) : CommandResult cw b c := by
  obtain ⟨_, ⟨⟩, effect⟩ := exec_effective i b _ h
  cases effect with
  | turnedAway hm => exact .turnedAway hm
  | faulted code word hm =>
    obtain ⟨recorded, cause⟩ := recordsOwnFault_exec i hm _ h rfl
    obtain rfl : word = cw := recorded.trans (encodeOfDecode cw i hd)
    exact .raised code hm fun e => cause (congrArg some e)
  | latched hi hm hc => exact .completed .ok hm rfl rfl rfl fun _ => ⟨hi ▸ hd, rfl⟩
  | wroteBse v hi hm => exact .of_ready hm hm rfl rfl
  | wroteTde v hi hm => exact .of_ready hm hm rfl rfl
  | returned v hi hm => exact .of_ready hm hm rfl rfl

/-- A command word that is answered, legal or not, has one of the results. -/
theorem commandResult_of_perform (h : perform (.command cw) b = .next ⟨p, c⟩) : CommandResult cw b c := by
  cases hd : decode cw with
  | ok i => exact commandResult_of_exec hd ((perform_command_ok hd).symm.trans h)
  | error e =>
    by_cases hm : b.mode = .faulted
    · cases (perform_command_faulted cw hm).symm.trans h
      exact .turnedAway hm
    · cases (perform_command_illegal hd hm).symm.trans h
      exact .raised .illegal hm (by decide)

/-! ### The other events -/

/-- An event that is performed is inside the interface (R228, U10). -/
theorem inInterface_of_perform {e : HostEvent} {t : State} (h : perform e b = .next t) : inInterface p e = true := by
  cases e with
  | regRead i =>
    cases hi : regAt i with
    | none => simp [perform, regRead, hi] at h
    | some r => simp [inInterface, hi]
  | regWrite i v =>
    cases hi : regAt i with
    | none => simp [perform, regWrite, hi] at h
    | some r =>
      have fits : v < 2 ^ regWidth p r := by
        by_contra wide
        simp [perform, regWrite, hi, wide] at h
      simp [inInterface, hi, fits]
  | bufRead addr =>
    have inside : addr < p.bufsz := by
      by_contra outside
      simp [perform, bufRead, outside] at h
    simp [inInterface, inside]
  | bufWrite addr v =>
    have inside : addr < p.bufsz := by
      by_contra outside
      simp [perform, bufWrite, outside] at h
    have fits : v < 256 := by
      by_contra wide
      simp [perform, bufWrite, inside, wide] at h
    simp [inInterface, inside, fits]
  | command cw => rfl
  | reset => rfl

/-- The four transactions that are not commands keep the mode (R196). -/
theorem mode_of_transaction {e : HostEvent} {rest : List HostEvent} (hp : b.pending = e :: rest)
    (command : ∀ cw, e ≠ .command cw) (reset : e ≠ .reset) (h : step ⟨p, b⟩ = .next ⟨p, c⟩) : c.mode = b.mode := by
  have inside := inInterface_of_perform ((step_event hp).symm.trans h)
  obtain ⟨d, answered, mode, -⟩ := hostTransactionsLeaveTheEngines p b e rest hp inside command reset
  cases answered.symm.trans h
  exact mode

end Exceptions

/-- Settles O8: the word is decoded without reading the state, and either way the mode is checked first. -/
theorem orderOfChecks : Obligations.OrderOfChecks := by
  intro p b cw rest hp
  rw [step_event hp]
  refine ⟨fun hm => perform_command_faulted cw hm, fun e hd hm => perform_command_illegal hd hm, fun i hd hi hm => ?_,
    fun i hd _ => perform_command_ok hd⟩
  rw [perform_command_ok hd, ← encodeOfDecode cw i hd]
  exact exec_unconfigured hi hm

/-- Settles O9: a command is turned away, and the other transactions reach none of these fields in any mode. -/
theorem faultedUntilReset : Obligations.FaultedUntilReset := by
  intro p b c e rest hp reset hm h
  by_cases command : ∃ cw, e = .command cw
  · obtain ⟨cw, rfl⟩ := command
    obtain ⟨turnedAway, -⟩ := orderOfChecks p b cw rest hp
    cases (turnedAway hm).symm.trans h
    simp [hm]
  · have inside := inInterface_of_perform ((step_event hp).symm.trans h)
    obtain ⟨d, answered, kept⟩ := hostTransactionsLeaveTheEngines p b e rest hp inside (not_exists.1 command) reset
    cases answered.symm.trans h
    exact hm ▸ kept

/-- Settles O11: of the results of a command word only the first two answer an error, each its own. -/
theorem faultsArePrecise : Obligations.FaultsArePrecise := by
  intro p b c cw rest code hp h hans
  rw [step_event hp] at h
  cases commandResult_of_perform h with
  | turnedAway hm =>
    obtain rfl : ErrCode.faulted = code := by simpa using hans
    exact ⟨fun _ => ⟨rfl, rfl⟩, fun other => absurd hm other⟩
  | raised cause hm hcode =>
    obtain rfl : cause = code := by simpa [faulted] using hans
    exact ⟨fun turned => absurd turned hm, fun _ => ⟨hcode, rfl⟩⟩
  | completed a hm ready answers noError first =>
    obtain rfl : a = .err code := (List.cons.inj (answers.symm.trans hans)).1
    simp [someError] at noError

/-- Settles O12: each result of a command word has its transitions, and the other events one each. -/
theorem modeTransitionsComplete : Obligations.ModeTransitionsComplete := by
  intro p b c h
  cases hp : b.pending with
  | nil =>
    cases (step_idle hp).symm.trans h
    rfl
  | cons e rest =>
    cases e with
    | reset =>
      cases (step_event hp).symm.trans h
      rfl
    | command cw =>
      cases commandResult_of_perform ((step_event hp).symm.trans h) with
      | turnedAway hm =>
        have hm : b.mode = .faulted := hm
        simp [hm]
      | raised code hm hcode =>
        exact ⟨fun _ => rfl, fun _ => .inl ⟨rfl, rfl⟩, fun _ => .inl ⟨rfl, rfl⟩⟩
      | completed a hm ready answers noError first =>
        refine ⟨fun turned => absurd turned hm, fun unconfigured => .inr ?_, fun _ => .inr ⟨ready, ?_⟩⟩
        · obtain ⟨construct, rfl⟩ := first unconfigured
          exact ⟨ready, construct, answers⟩
        · rw [answers]
          exact noError
    | regRead i => exact mode_of_transaction hp (by simp) (by simp) h
    | regWrite i v => exact mode_of_transaction hp (by simp) (by simp) h
    | bufRead addr => exact mode_of_transaction hp (by simp) (by simp) h
    | bufWrite addr v => exact mode_of_transaction hp (by simp) (by simp) h

end Sys2Proof.Proofs

/-! ## Every step keeps the invariant (70_reset_and_hazards.md R212) -/

namespace Sys2Proof.Proofs

open Sys2Proof Sys2Proof.Machine Sys2Proof.Claims

section Invariant

variable {p : Params} {b c : Block p} {i : Instr}

/-! ### What the answers record (R227) -/

/-- An answer that returns no value leaves the last one. -/
theorem lastVal_cons_of_ne {a : Answer p} (value : ∀ v, a ≠ .val v) (l : List (Answer p)) :
    lastVal (a :: l) = lastVal l := by
  cases a with
  | val v => exact absurd rfl (value v)
  | _ => rfl

/-- An answer that is no error leaves whether the run has met one. -/
theorem someError_cons_of_ne {a : Answer p} (error : ∀ code, a ≠ .err code) (l : List (Answer p)) :
    someError (a :: l) = someError l := by
  cases a with
  | err code => exact absurd rfl (error code)
  | _ => rfl

/-! ### The updates of the state -/

/-- An answer that is neither a value nor an error keeps the invariant. -/
theorem inv_answer (inv : b.Inv) {a : Answer p} (value : ∀ v, a ≠ .val v) (error : ∀ code, a ≠ .err code) :
    (b.answer a).Inv :=
  { inv with
    ready := fun hm => { inv.ready hm with }
    result_last := fun valid => (lastVal_cons_of_ne value _).trans (inv.result_last valid)
    error_iff := (someError_cons_of_ne error _).symm ▸ inv.error_iff }

/-- Being turned away keeps the invariant: the block is `FAULTED` already (R184). -/
theorem inv_turnedAway (inv : b.Inv) (hm : b.mode = .faulted) : (b.answer (.err .faulted)).Inv :=
  { inv with
    ready := fun hr => { inv.ready hr with }
    error_iff := ⟨fun _ => hm, fun _ => rfl⟩ }

/-- Fault entry keeps the invariant: it records the cause with the answer (R183). -/
theorem inv_fault (inv : b.Inv) {code : ErrCode} (recorded : code ≠ .faulted) (cw : Word32) :
    ((b.enterFault code cw).answer (.err code)).Inv :=
  { inv with
    ready := nofun
    no_fault := fun hm => absurd rfl hm
    fault_code := fun _ => ⟨nofun, fun e => recorded (Option.some.inj e)⟩
    unconfigured := nofun
    error_iff := ⟨fun _ => rfl, fun _ => rfl⟩ }

/-- A `construct` that passes its checks keeps the invariant: the block was not `FAULTED` (R96). -/
theorem inv_latch (inv : b.Inv) (hm : b.mode ≠ .faulted) (hc : b.constructError = none) : b.latch.Inv :=
  { inv with
    ready := fun _ => { (readyInv_latch hc).1 with }
    no_fault := fun _ => inv.no_fault hm
    fault_code := nofun
    unconfigured := nofun
    error_iff := ⟨fun e => absurd (inv.error_iff.1 e) hm, nofun⟩ }

/-- Writing `BSE_REM` keeps the invariant, which says nothing of it. -/
theorem inv_withBseRem (inv : b.Inv) (v : Word p) : (b.withBseRem v).Inv :=
  { inv with ready := fun hm => { inv.ready hm with } }

/-- Writing `TDE_REM` keeps the invariant when a reflected remainder fits the width (R151). -/
theorem inv_withTdeRem (inv : b.Inv) {v : Word p} (fits : b.pRefin = true → v.toNat < 2 ^ b.width) :
    (b.withTdeRem v).Inv :=
  { inv with ready := fun hm => { inv.ready hm with tde_rem := fits } }

/-- Returning a value in `READY` keeps the invariant: `RESULT` and the answer are the same value (R32). -/
theorem inv_returned (inv : b.Inv) (hm : b.mode = .ready) (v : Word p) : ((b.withResult v).answer (.val v)).Inv :=
  { inv with
    ready := fun _ => { inv.ready hm with }
    unconfigured := fun unconfigured => absurd (hm.symm.trans unconfigured) (by decide)
    result_last := fun _ => rfl }

/-- Handing out a free value keeps the invariant. -/
theorem inv_tick (inv : b.Inv) : b.tick.Inv :=
  { inv with ready := fun hm => { inv.ready hm with } }

/-- Taking the next event off the host's list keeps the invariant. -/
theorem inv_withPending (inv : b.Inv) (rest : List HostEvent) : ({ b with pending := rest } : Block p).Inv :=
  { inv with ready := fun hm => readyInv_withPending (inv.ready hm) rest }

/-- A register write keeps the invariant: it reaches only staged and operand registers (R39). -/
theorem inv_writeReg (inv : b.Inv) (v : Nat) (r : RegName) : (b.writeReg v r).Inv := by
  cases r with
  | status | result | faultCw => exact inv
  | _ => exact { inv with ready := fun hm => { inv.ready hm with } }

/-- A buffer write below `BUFSZ` keeps the invariant: the buffer stays canonical and in its bounds (R51, R53). -/
theorem inv_withBufWrite (inv : b.Inv) {addr : Nat} (ha : addr < p.bufsz) (v : Byte) :
    ({ b with buf := b.buf.write addr v } : Block p).Inv :=
  { inv with
    buf_wf := Memory.write_wf _ _ _ inv.buf_wf
    buf_lt := fun cell hcell => by
      obtain old | rfl := Memory.mem_write _ _ _ _ hcell
      · exact inv.buf_lt cell old
      · exact ha
    ready := fun hm => { inv.ready hm with } }

/-- Reset brings the invariant about, whatever the block was (R210). -/
theorem inv_resetBlock (b : Block p) : (resetBlock b).Inv :=
  { reset_inv p with ready := nofun }

/-! ### The commands -/

/-- In `READY` no command that writes `TDE_REM` leaves a reflected one too wide (R151): a byte step keeps what the
engines' agreement asks of it, and the others load a reflection. -/
theorem tdeRem_fits_of_exec (inv : b.ReadyInv) (hm : b.mode = .ready) (writes : writesTdeRem i = true)
    (h : exec i ⟨p, b⟩ = .next ⟨p, c⟩) : c.pRefin = true → c.tdeRem.toNat < 2 ^ c.width := by
  have after_bytes (bytes : List Byte) (refin : b.pRefin = true) :
      (bytes.foldl (tdeByte b.width b.tdeTable b.pRefin) b.tdeRem).toNat < 2 ^ b.width := by
    have start : RemaindersAgree b.width b.pRefin b.tdeRem (reflectHelper b.width b.tdeRem b.pRefin) :=
      ⟨.refl _ _, fun refin => noSurplus_of_lt (inv.tde_rem refin)⟩
    exact ((remaindersAgree_foldl inv start bytes).fits refin).toNat_lt
  have loaded (x : Word p) (refin : b.pRefin = true) : (reflectHelper b.width x b.pRefin).toNat < 2 ^ b.width :=
    ((remaindersAgree_load inv.width_le b.pRefin x).fits refin).toNat_lt
  cases i with
  | construct =>
    have unfaulted : b.mode ≠ .faulted := by simp [hm]
    cases hc : b.constructError with
    | some code =>
      cases (exec_construct_error unfaulted hc).symm.trans h
      exact inv.tde_rem
    | none =>
      cases (exec_construct_latch unfaulted hc).symm.trans h
      exact (readyInv_latch hc).1.tde_rem
  | tdePbyte byte =>
    cases (exec_tdePbyte_ready hm byte).symm.trans h
    exact after_bytes [byte]
  | tdePbytes =>
    obtain ⟨⟨⟩⟩ | ⟨bytes, -, ⟨⟩⟩ := withMessage_next ((whenReady_ready hm).symm.trans h)
    · exact inv.tde_rem
    · exact after_bytes bytes
  | tdeReset =>
    cases (whenReady_ready hm).symm.trans h
    exact loaded b.pInit
  | tdeResetv =>
    cases (whenReady_ready hm).symm.trans h
    exact loaded b.argA
  | _ => cases writes

/-- A command that answers keeps the invariant. -/
theorem inv_of_exec (inv : b.Inv) (h : exec i ⟨p, b⟩ = .next ⟨p, c⟩) : c.Inv := by
  obtain ⟨_, ⟨⟩, effect⟩ := exec_effective i b _ h
  cases effect with
  | turnedAway hm => exact inv_turnedAway inv hm
  | faulted code cw hm =>
    obtain ⟨-, cause⟩ := recordsOwnFault_exec i hm _ h rfl
    exact inv_fault inv (fun e => cause (congrArg some e)) cw
  | latched hi hm hc => exact inv_answer (inv_latch inv hm hc) nofun nofun
  | wroteBse v hi hm => exact inv_answer (inv_withBseRem inv v) nofun nofun
  | wroteTde v hi hm =>
    have fits : b.pRefin = true → v.toNat < 2 ^ b.width := tdeRem_fits_of_exec (inv.ready hm) hm hi h
    exact inv_answer (inv_withTdeRem inv fits) nofun nofun
  | returned v hi hm => exact inv_returned inv hm _

/-! ### The events -/

/-- A command word that is answered, legal or not, keeps the invariant. -/
theorem inv_of_perform_command (inv : b.Inv) {cw : Word32} {t : State} (h : perform (.command cw) b = .next t) :
    ∃ c : Block p, t = ⟨p, c⟩ ∧ c.Inv := by
  cases hd : decode cw with
  | ok i =>
    have executed := (perform_command_ok hd).symm.trans h
    obtain ⟨c, rfl, -⟩ := exec_effective i b t executed
    exact ⟨c, rfl, inv_of_exec inv executed⟩
  | error e =>
    by_cases hm : b.mode = .faulted
    · cases (perform_command_faulted cw hm).symm.trans h
      exact ⟨_, rfl, inv_turnedAway inv hm⟩
    · cases (perform_command_illegal hd hm).symm.trans h
      exact ⟨_, rfl, inv_fault inv (by decide) cw⟩

/-- Every event of the host port that is answered keeps the invariant, and the block's parameters. -/
theorem inv_of_perform (inv : b.Inv) {e : HostEvent} {t : State} (h : perform e b = .next t) :
    ∃ c : Block p, t = ⟨p, c⟩ ∧ c.Inv := by
  have inside := inInterface_of_perform h
  cases e with
  | regRead i =>
    obtain ⟨r, hi⟩ := Option.isSome_iff_exists.1 inside
    simp only [perform, regRead, hi] at h
    split at h
    · cases h
      exact ⟨_, rfl, inv_answer (inv_tick inv) nofun nofun⟩
    · cases h
      exact ⟨_, rfl, inv_answer inv nofun nofun⟩
  | regWrite i v =>
    cases hi : regAt i with
    | none => simp [inInterface, hi] at inside
    | some r =>
      have hv : v < 2 ^ regWidth p r := by simpa [inInterface, hi] using inside
      cases (regWrite_fits hi hv).symm.trans h
      exact ⟨_, rfl, inv_writeReg inv v r⟩
  | bufRead addr =>
    have ha : addr < p.bufsz := by simpa [inInterface] using inside
    cases hb : b.buf.read addr with
    | none =>
      cases (bufRead_unwritten ha hb).symm.trans h
      exact ⟨_, rfl, inv_answer (inv_tick inv) nofun nofun⟩
    | some v =>
      cases (bufRead_written ha hb).symm.trans h
      exact ⟨_, rfl, inv_answer inv nofun nofun⟩
  | bufWrite addr v =>
    obtain ⟨ha, hv⟩ : addr < p.bufsz ∧ v < 256 := by simpa [inInterface] using inside
    cases (bufWrite_fits ha hv).symm.trans h
    exact ⟨_, rfl, inv_withBufWrite inv ha _⟩
  | command cw => exact inv_of_perform_command inv h
  | reset =>
    cases h
    exact ⟨_, rfl, inv_resetBlock b⟩

end Invariant

/-- Settles O15: an idle step keeps the block, and an event is performed on the block with the event taken off the
host's list. -/
theorem stepKeepsTheInvariant : Obligations.StepKeepsTheInvariant := by
  intro p b t inv h
  cases hp : b.pending with
  | nil =>
    cases (step_idle hp).symm.trans h
    exact ⟨b, rfl, inv⟩
  | cons e rest => exact inv_of_perform (inv_withPending inv rest) ((step_event hp).symm.trans h)

end Sys2Proof.Proofs

/-! ## A host that keeps its duties is answered (70_reset_and_hazards.md R225 to R228) -/

namespace Sys2Proof.Proofs

open Sys2Proof Sys2Proof.Machine Sys2Proof.Claims

section Duties

variable {p : Params} {b : Block p} {i : Instr}

/-- The outcome is a next state, at the parameters `p`. -/
def Answers (p : Params) (o : Outcome) : Prop := ∃ c : Block p, o = .next ⟨p, c⟩

/-- The guard answers by itself outside `READY` (R182). -/
theorem answers_whenReady {body : Outcome} (h : b.mode = .ready → Answers p body) : Answers p (whenReady i b body) := by
  obtain ⟨-, e⟩ | ⟨-, e⟩ | ⟨hm, e⟩ := whenReady_cases i b body <;> rw [e]
  · exact ⟨_, rfl⟩
  · exact ⟨_, rfl⟩
  · exact h hm

/-- A range command is refused for an unwritten byte only (R52, R58). -/
theorem answers_withMessage {use : List Byte → Outcome} (written : b.rangeOk = true → b.rangeWritten)
    (h : ∀ bytes, Answers p (use bytes)) : Answers p (withMessage i b use) := by
  obtain ⟨-, e⟩ | ⟨range, addr, off_le, lt_end, unwritten, -, -⟩ | ⟨bytes, -, e⟩ := withMessage_cases i b use
  · exact ⟨_, e⟩
  · have value := written (decide_eq_true range) addr off_le lt_end
    simp [unwritten] at value
  · exact e ▸ h bytes

/-- `construct` is answered in every mode (R96, R184). -/
theorem answers_exec_construct (b : Block p) : Answers p (exec .construct ⟨p, b⟩) := by
  by_cases hm : b.mode = .faulted
  · exact ⟨_, exec_construct_faulted hm⟩
  · cases hc : b.constructError with
    | some code => exact ⟨_, exec_construct_error hm hc⟩
    | none => exact ⟨_, exec_construct_latch hm hc⟩

/-- A command is answered when the range it reads, if it reads one, has been written (R221). -/
theorem answers_exec (i : Instr) (written : b.readsRange i = true → b.rangeWritten) :
    Answers p (exec i ⟨p, b⟩) := by
  cases i with
  | construct => exact answers_exec_construct b
  | bsePbits val cnt =>
    refine answers_whenReady fun _ => ?_
    split <;> exact ⟨_, rfl⟩
  | bsePbytes | tdePbytes =>
    exact answers_whenReady fun hm =>
      answers_withMessage (fun range => written (by simp [Block.readsRange, hm, range])) fun _ => ⟨_, rfl⟩
  | augCalc =>
    refine answers_whenReady fun hm => ?_
    split
    case isTrue => exact ⟨_, rfl⟩
    case isFalse hw =>
      have whole : b.width % 8 = 0 := not_not.1 hw
      exact answers_withMessage (fun range => written (by simp [Block.readsRange, hm, range, whole])) fun _ => ⟨_, rfl⟩
  | bsePbit _ | bsePbyte _ | bseReset | bseResetv | bseInterim | bseChecksum | tdePbyte _ | tdeReset | tdeResetv
  | tdeInterim | tdeChecksum | tbRead _ _ => exact answers_whenReady fun _ => ⟨_, rfl⟩

/-- A command word is answered when the command it encodes is; an illegal one always (R80, R182). -/
theorem answers_perform_command {cw : Word32}
    (written : ∀ i, decode cw = .ok i → b.readsRange i = true → b.rangeWritten) :
    Answers p (perform (.command cw) b) := by
  cases hd : decode cw with
  | ok i => exact perform_command_ok hd ▸ answers_exec i (written i hd)
  | error e =>
    rw [perform_command_error hd]
    obtain ⟨-, e⟩ | ⟨-, e⟩ := illegalCommand_cases cw b
    · exact ⟨_, e⟩
    · exact ⟨_, e⟩

end Duties

/-- Settles O21: the other transactions need the interface alone, reset and an idle step nothing. -/
theorem everyDutifulEventIsAnswered : Obligations.EveryDutifulEventIsAnswered := by
  intro p b dutiful
  cases hp : b.pending with
  | nil => exact ⟨b, step_idle hp⟩
  | cons e rest =>
    obtain ⟨inside, written⟩ := dutiful e rest hp
    cases e with
    | command cw =>
      rw [step_event hp]
      exact answers_perform_command fun i hd => written cw i rfl hd
    | reset => exact ⟨_, step_event hp⟩
    | regRead _ | regWrite _ _ | bufRead _ | bufWrite _ _ =>
      obtain ⟨c, answered, -⟩ := hostTransactionsLeaveTheEngines p b _ rest hp inside nofun nofun
      exact ⟨c, answered⟩

end Sys2Proof.Proofs

/-! ## Staged parameters are inert (70_reset_and_hazards.md R213; 10_state.md R29) -/

namespace Sys2Proof.Proofs

open Sys2Proof Sys2Proof.Machine Sys2Proof.Claims

section Staged

variable {p : Params} {b d : Block p} {i : Instr} {o o' : Outcome}

/-- The block `b` with the five staged registers of the block `d`. -/
def withStagedOf (d b : Block p) : Block p :=
  { b with
    cfgWidth := d.cfgWidth
    cfgPoly := d.cfgPoly
    cfgInit := d.cfgInit
    cfgXorout := d.cfgXorout
    cfgCtrl := d.cfgCtrl }

/-- Where the first outcome is a next state, the second is the same one with the staged registers of `d`. -/
def Restaged (d : Block p) (o o' : Outcome) : Prop :=
  ∀ c : Block p, o = .next ⟨p, c⟩ → o' = .next ⟨p, withStagedOf d c⟩

theorem restaged_next (d c : Block p) : Restaged d (.next ⟨p, c⟩) (.next ⟨p, withStagedOf d c⟩) := by
  rintro _ ⟨⟩
  rfl

/-- The guard looks at the mode alone (R182). -/
theorem restaged_whenReady (h : Restaged d o o') :
    Restaged d (whenReady i b o) (whenReady i (withStagedOf d b) o') := by
  cases hm : b.mode with
  | faulted =>
    rw [whenReady_faulted hm, whenReady_faulted (b := withStagedOf d b) hm]
    exact restaged_next d _
  | unconfigured =>
    rw [whenReady_unconfigured hm, whenReady_unconfigured (b := withStagedOf d b) hm]
    exact restaged_next d _
  | ready => rwa [whenReady_ready hm, whenReady_ready (b := withStagedOf d b) hm]

/-- A range command reads `ARG_OFF`, `ARG_SIZE` and the buffer for its bytes (R58). -/
theorem restaged_withMessage {use use' : List Byte → Outcome} (h : ∀ bytes, Restaged d (use bytes) (use' bytes)) :
    Restaged d (withMessage i b use) (withMessage i (withStagedOf d b) use') := by
  obtain ⟨outside, e⟩ | ⟨-, addr, -, -, -, -, e⟩ | ⟨bytes, held, e⟩ := withMessage_cases i b use
  · rw [e, withMessage_outside (b := withStagedOf d b) i use' outside]
    exact restaged_next d _
  · rw [e]
    nofun
  · rw [e, withMessage_holds (b := withStagedOf d b) held]
    exact h bytes

/-- A check that does not read the staged registers decides both alike. -/
theorem restaged_ite {check : Prop} [Decidable check] {x x' : Outcome} (h : Restaged d o o') (hx : Restaged d x x') :
    Restaged d (if check then o else x) (if check then o' else x') := by
  by_cases hc : check
  · rwa [if_pos hc, if_pos hc]
  · rwa [if_neg hc, if_neg hc]

/-- Every command but `construct` does the same for other staged registers: it reads the active ones (R29). -/
theorem restaged_exec (d b : Block p) (hi : i ≠ .construct) :
    Restaged d (exec i ⟨p, b⟩) (exec i ⟨p, withStagedOf d b⟩) := by
  cases i with
  | construct => exact absurd rfl hi
  | bsePbits val cnt =>
    exact restaged_whenReady (restaged_ite (restaged_next d _) (restaged_next d _))
  | bsePbytes | tdePbytes => exact restaged_whenReady (restaged_withMessage fun _ => restaged_next d _)
  | augCalc =>
    exact restaged_whenReady <|
      restaged_ite (restaged_next d _) (restaged_withMessage fun _ => restaged_next d _)
  | bsePbit _ | bsePbyte _ | bseReset | bseResetv | bseInterim | bseChecksum | tdePbyte _ | tdeReset | tdeResetv
  | tdeInterim | tdeChecksum | tbRead _ _ => exact restaged_whenReady (restaged_next d _)

end Staged

/-- Settles O57: the given values are the staged registers of some block. -/
theorem stagedParametersAreInert : Obligations.StagedParametersAreInert := by
  intro i p b c width poly init xorout ctrl hi h
  exact restaged_exec
    { b with cfgWidth := width, cfgPoly := poly, cfgInit := init, cfgXorout := xorout, cfgCtrl := ctrl } b hi c h

end Sys2Proof.Proofs
